-- ==== Sys2Proof/Word.lean ====
section
/-! DEFINITION. The widths of 00_scope.md rule R6: a datum is 8 bits, a register address 6, rxAlign 3.
Pins are named by plain numbers (`PinId`). -/

namespace Sys2Proof

/-- `BYTE` of R6: every transferred datum, buffer slot and register value. -/
abbrev Byte := BitVec 8

/-- `REG_BITS` of R6: a register address, 0 to 63. -/
abbrev RegAddr := BitVec 6

/-- `ALIGN_BITS` of R6: rxAlign, 0 to 7. -/
abbrev Align := BitVec 3

/-- The id of one GPIO line; that it is a natural number is a DESIGN CHOICE (log 23). -/
abbrev PinId := Nat

end Sys2Proof
end

