-- ==== Sys2Proof/Syntax.lean ====
section
/-! DEFINITION. The commands and the wire byte forms of spec/opcode_table.json, the two encodings they are
read from (30_encoding.md: a command record, a byte of a frame), and the names of the boundary refusals. -/

namespace Sys2Proof

/-- One constructor per row of spec/opcode_table.json. -/
inductive Instr where
  /-- WRITE1, 40_register_write.md R100. -/
  | write1 (reg : RegAddr) (value : Byte)
  /-- WRITEN, R103: `buf` names the caller's buffer. -/
  | writen (reg : RegAddr) (count : Nat) (buf : Nat)
  /-- READ1, 41_register_read.md R120. -/
  | read1 (reg : RegAddr)
  /-- READN, R123: `buf` names the caller's buffer. -/
  | readn (reg : RegAddr) (count : Nat) (buf : Nat) (rxAlign : Align)
  /-- INIT, 42_init_sequencer.md R150. -/
  | init
  /-- (reserved), selector 5, 30_encoding.md R80. -/
  | reserved5
  /-- (reserved), selector 6, R80. -/
  | reserved6
  /-- (reserved), selector 7, R80. -/
  | reserved7
  /-- ADDR_W, R72: the address byte of a write frame, exchanged on the wire. -/
  | addrW (reg : RegAddr)
  /-- ADDR_R, R73: an address byte of a read frame, exchanged on the wire. -/
  | addrR (reg : RegAddr)
  /-- DUMMY, R74: the last byte of a read frame, exchanged on the wire. -/
  | dummy
  deriving DecidableEq, Repr

/-- A command as the host hands it over, in the wider representation of R80: numbers, not yet checked.
The count is an integer, since R80 refuses a negative one. Operands a command does not have are ignored. -/
structure Record where
  op      : Nat
  reg     : Nat := 0
  value   : Byte := 0
  count   : Int := 0
  buf     : Nat := 0
  rxAlign : Nat := 0
  deriving DecidableEq, Repr

/-- Where a wire byte stands in its frame (R74, R78): a place that carries an address byte, or the end of a
read frame, where the same bits 0x00 are the dummy. -/
inductive WirePos where
  | address
  | readEnd
  deriving DecidableEq, Repr

/-- What the decoder reads: a command record, or a byte of the wire at its place. -/
inductive Code where
  | command (r : Record)
  | wire (pos : WirePos) (b : Byte)
  deriving DecidableEq, Repr

/-- The refusals of R80, and of the monitor of R78, by name. -/
inductive Reject where
  /-- `R_BAD_OP`: a selector that is none of the five operations. -/
  | badOp
  /-- `R_REG_RANGE`: register >= 64. -/
  | regRange
  /-- `R_COUNT_RANGE`: count > COUNT_MAX, or count < 0. -/
  | countRange
  /-- `R_ALIGN_RANGE`: rxAlign >= 8. -/
  | alignRange
  /-- An address byte with its reserved bit 0 set (R81): the block never sends one. -/
  | addrLowBit
  /-- The last byte of a read frame is not 0x00 (R74). -/
  | dummyNotZero
  /-- A frame that R78 does not describe: no byte at all, or a read frame without its dummy or with another address in it. -/
  | notAFrame
  deriving DecidableEq, Repr

/-- `OPR` of 10_state.md R21: the operation being performed. -/
inductive Opr where
  | write1 | writen | read1 | readn | init
  deriving DecidableEq, Repr, Inhabited

/-- What a bus monitor reads from a frame (R78). -/
inductive WireFrame where
  /-- A write frame: the register and its data bytes. -/
  | write (reg : RegAddr) (data : List Byte)
  /-- A read frame: the register and how many bytes were asked for. -/
  | read (reg : RegAddr) (count : Nat)
  deriving DecidableEq, Repr

/-- `0x` and two hexadecimal digits. -/
def hexByte (n : Nat) : String :=
  "0x" ++ String.ofList [Nat.digitChar (n / 16 % 16), Nat.digitChar (n % 16)]

/-- The listing line of a command (R83); the wire forms and the reserved selectors have none. -/
def listing : Instr → Option String
  | .write1 r v => some ("wr " ++ hexByte r.toNat ++ ", " ++ hexByte v.toNat)
  | .writen r n b => some ("wrn " ++ hexByte r.toNat ++ ", " ++ toString n ++ ", B" ++ toString b)
  | .read1 r => some ("rd " ++ hexByte r.toNat)
  | .readn r n b ra =>
      some ("rdn " ++ hexByte r.toNat ++ ", " ++ toString n ++ ", B" ++ toString b ++ ", " ++ toString ra.toNat)
  | .init => some "init"
  | .reserved5 | .reserved6 | .reserved7 => none
  | .addrW _ | .addrR _ | .dummy => none

end Sys2Proof
end

