-- ==== Sys2Proof/Machine/Types.lean ====
section
/-! DEFINITION. The plain data the state is made of: pins, bus settings, configuration, events, faults' recorded
values, the datapath registers, buffers, agents (10_state.md, 20_memory.md, 60_exceptions.md). -/

namespace Sys2Proof.Machine

/-- A level driven or sampled (00_scope.md R8). -/
inductive Level where
  | low | high
  deriving DecidableEq, Repr, Inhabited

/-- A direction a pin is set to (R8). -/
inductive Dir where
  | input | output
  deriving DecidableEq, Repr, Inhabited

/-- `PIN[p].dir` of R23: `UNK`, `IN` or `OUT`. -/
inductive PinDir where
  | unk | input | output
  deriving DecidableEq, Repr

/-- `PIN[p].lvl` of R23: `UNK`, `LOW` or `HIGH`, the level the block last drove. -/
inductive PinLvl where
  | unk | low | high
  deriving DecidableEq, Repr

/-- `PIN[p]` of R23. -/
structure Pin where
  dir : PinDir
  lvl : PinLvl
  deriving DecidableEq, Repr

/-- The pin state at construction (R34). -/
def Pin.unk : Pin := ⟨.unk, .unk⟩

/-- The pin state INIT leaves chip-select in, and every transfer asks for (R34, R174). -/
def Pin.deselected : Pin := ⟨.output, .high⟩

/-- Chip-select inside a transaction (R24). -/
def Pin.selected : Pin := ⟨.output, .low⟩

/-- `BIT_ORDER` of R6, a part of `BUS_SETTINGS`; no rule reads it. -/
inductive BitOrder where
  | msbFirst | lsbFirst
  deriving DecidableEq, Repr, Inhabited

/-- `BUS_SETTINGS` of R6 and R20: speed, bit order, clock polarity and phase; carried unchanged, read by no rule. -/
structure BusSettings where
  speed    : Nat
  bitOrder : BitOrder
  polarity : Bool
  phase    : Bool
  deriving DecidableEq, Repr, Inhabited

/-- `CFG` of R20, set at construction and never written afterwards. -/
structure Cfg where
  csPin  : PinId
  rstPin : Option PinId
  bus    : BusSettings
  deriving DecidableEq, Repr

/-- The agents of R36. -/
inductive Agent where
  | host
  | framer (k : Nat)
  | bus
  | platform
  deriving DecidableEq, Repr

/-- The events of R31. -/
inductive Event where
  | busBegin (s : BusSettings)
  | busEnd
  | cs (l : Level)
  | xfer (tx rx : Byte)
  | pinMode (p : PinId) (d : Dir)
  | pinWrite (p : PinId) (l : Level)
  | pinRead (p : PinId) (l : Level)
  | delay (ms : Nat)
  | bufRd (i : Nat) (v : Byte)
  | bufWr (i : Nat) (v : Byte)
  deriving DecidableEq, Repr

/-- A fault with its recorded value (60_exceptions.md R175). -/
inductive FaultCode where
  /-- `F_NOT_INIT`. -/
  | notInit (cmd : Instr)
  /-- `F_BUF_BOUNDS`: the count n and the buffer's length L. -/
  | bufBounds (cmd : Instr) (n len : Nat)
  /-- `F_UNDEF_READ`: the lowest undefined slot. -/
  | undefRead (cmd : Instr) (slot : Nat)
  deriving DecidableEq, Repr

/-- What an operation gives back to the host: nothing, READ1's byte, or INIT's Bool (R27, R32). -/
inductive Result where
  | none
  | byte (b : Byte)
  | bool (b : Bool)
  deriving DecidableEq, Repr, Inhabited

/-- `PHASE` of R22. A phase names the event the sequencer is about to perform. -/
inductive Phase where
  | idle | acq | sel | xfer | desel | rel | done | faulted
  deriving DecidableEq, Repr

/-- The events of INIT's pin sequence (42_init_sequencer.md R150), in its order. R22 has no phase between IDLE and DONE
for them, so the event that comes next is kept apart from `PHASE`. -/
inductive InitStep where
  /-- `PinMode(CFG.CS_PIN, OUT)`. -/
  | csMode
  /-- `PinWrite(CFG.CS_PIN, HIGH)`. -/
  | csHigh
  /-- `PinMode(p, IN)`, for the reset pin p. -/
  | rstMode
  /-- `PinRead(p)`. -/
  | rstRead
  /-- `PinMode(p, OUT)`, after a LOW sample. -/
  | rstOut
  /-- `PinWrite(p, HIGH)`. -/
  | rstHigh
  /-- `Delay(RESET_SETTLE_MS)`. -/
  | settle
  deriving DecidableEq, Repr

/-- The transient datapath registers of R21. The last three are the model's own: the planned frame (R77), the
buffer lent to the call (R64), and slot 0's value at entry, which the receive aligner keeps the low bits of (R125). -/
structure Datapath where
  opr  : Opr
  reg  : RegAddr
  addr : Byte
  cnt  : Nat
  idx  : Nat
  mask : Byte
  ra   : Align
  rxl  : Byte
  res  : Result
  plan : List Byte
  buf  : Nat
  old  : Byte
  deriving DecidableEq, Repr, Inhabited

/-- Every datapath register zero: what the model puts there at reset (R34: unspecified, never read). -/
def Datapath.zero : Datapath :=
  { opr := .write1, reg := 0, addr := 0, cnt := 0, idx := 0, mask := 0, ra := 0, rxl := 0, res := .none,
    plan := [], buf := 0, old := 0 }

/-- A caller's buffer (R50, R52): its length, and the slots that hold a value as (slot, byte) cells in
rising order. A slot that is not listed holds no value. -/
structure Buffer where
  len   : Nat
  cells : List Host.Cell
  deriving DecidableEq, Repr

/-- How far a turn carries an instance: its whole operation (R9), or one event of it. -/
inductive Grain where
  | whole | event
  deriving DecidableEq, Repr

/-- One move of one agent of R36. The BUS moves inside a framer's turn, when it answers a transfer or a pin read. -/
inductive Turn where
  /-- FRAMER(k) moves. -/
  | framer (k : Nat) (g : Grain)
  /-- HOST issues a command to instance k (60_exceptions.md R188). -/
  | hostIssue (k : Nat) (r : Record)
  /-- HOST defines its buffer b: length and contents, slot by slot (R188). -/
  | hostBuffer (b : Nat) (slots : List (Option Byte))
  /-- Another bus user acquires the bus, if it is free (10_state.md R25). -/
  | platformBegin
  /-- That bus user releases it. -/
  | platformEnd
  deriving DecidableEq, Repr

/-- The agent that moves in a turn. -/
def Turn.agent : Turn → Agent
  | .framer k _ => .framer k
  | .hostIssue _ _ => .host
  | .hostBuffer _ _ => .host
  | .platformBegin => .platform
  | .platformEnd => .platform

end Sys2Proof.Machine
end

