-- ==== Sys2Proof/Config.lean ====
section
/-! DEFINITION. What an implementation fixes, and the free values of the spec. The OPEN parameters of 00_scope.md R6
are fields of State, so that a statement about every state holds for every choice of them; the values here are the ones
State.reset is constructed with. An opaque constant has no body: no proof can see what it is. -/

namespace Sys2Proof

open Machine

/-- `RESET_SETTLE_MS` of R6 and 42_init_sequencer.md R158. -/
def Config.resetSettleMs : Nat := 50

/-- A byte the BUS answers when no input is given for it: a draw under no law (10_state.md R33). -/
opaque Config.rxDraw : Nat → Byte

/-- A level the BUS answers when no input is given for it: a draw under no law (R33). -/
opaque Config.levelDraw : Nat → Level

/-- What the datapath registers hold between operations: unspecified (R21). -/
opaque Config.idleDatapath : Nat → Datapath

/-- `BUS_SETTINGS` of R6, OPEN: no source gives a value. -/
opaque Config.busSettings : BusSettings

/-- DESIGN CHOICE (log 3): the `COUNT_MAX` State.reset is constructed with. -/
def Config.countMax : Nat := 65535

/-- DESIGN CHOICE (log 3): the two instances State.reset is constructed with; the pin numbers are those of
95_test_vectors.md. -/
def Config.cfgs : List Cfg :=
  [⟨10, some 9, Config.busSettings⟩, ⟨8, none, Config.busSettings⟩]

/-- A configuration given in numbers: the sentinel `UNUSED_PIN` becomes "not connected" (92_eei_decisions.md D10).
The sentinel is OPEN (00_scope.md R6), so it is an argument. DESIGN CHOICE (log 23): the numbers are natural numbers, so a
negative sentinel cannot be given. -/
def Config.ofNumbers (unusedPin cs rst : Nat) (bus : BusSettings) : Cfg :=
  ⟨cs, if rst = unusedPin then none else some rst, bus⟩

end Sys2Proof
end

