-- ==== Sys2Proof/WellFormed.lean ====
section
/-! DEFINITION. Which instructions the command interface can hold (30_encoding.md R76): the types bound the
register, the data byte and rxAlign; the count is bounded by the parameter `COUNT_MAX` (00_scope.md R6). -/

namespace Sys2Proof

/-- A count in 0..`COUNT_MAX`. -/
def countOk (countMax n : Nat) : Bool := decide (n ≤ countMax)

/-- The well-formed instructions for a given `COUNT_MAX`. -/
def Instr.wf (countMax : Nat) : Instr → Bool
  | .writen _ n _ => countOk countMax n
  | .readn _ n _ _ => countOk countMax n
  | .write1 _ _ | .read1 _ | .init => true
  | .reserved5 | .reserved6 | .reserved7 => true
  | .addrW _ | .addrR _ | .dummy => true

end Sys2Proof
end

