-- ==== Sys2Proof/Decode.lean ====
section
/-! DEFINITION. The encodings of 30_encoding.md: the address bytes (R71-R73), the dummy (R74), the mask (R75), the
frame plan (R77), the bus monitor (R78), and the decoder of commands and wire bytes (R76, R80) with its encoder. -/

namespace Sys2Proof

/-- `AW(r)` of R72: the register in bits 6:1, direction and reserved bit 0. -/
def addrWrite (r : RegAddr) : Byte := r.setWidth 8 <<< 1

/-- `AR(r)` of R73: the same with the direction bit 7 set. -/
def addrRead (r : RegAddr) : Byte := 0x80#8 ||| (r.setWidth 8 <<< 1)

/-- The dummy byte of R74. -/
def dummyByte : Byte := 0x00#8

/-- `MASK(ra)` of R75: bits ra..7 set. -/
def rxMask (ra : Align) : Byte := 0xFF#8 <<< ra.toNat

/-- The register field of an address byte, bits 6:1 (R71). -/
def addrReg (b : Byte) : RegAddr := b.extractLsb' 1 6

/-- The direction field of an address byte, bit 7 (R71): true for a read. -/
def addrIsRead (b : Byte) : Bool := b.getLsbD 7

/-- The reserved bit 0 of an address byte (R81). -/
def addrReserved (b : Byte) : Bool := b.getLsbD 0

/-- The frame plan of R77: the bytes a command sends, `none` for no transaction. `vals` are the values of the slots
0..count-1 of a WRITEN. The wire forms and the reserved selectors plan nothing. -/
def planTx (vals : List Byte) : Instr → Option (List Byte)
  | .write1 r v => some [addrWrite r, v]
  | .writen r _ _ => some (addrWrite r :: vals)
  | .read1 r => some [addrRead r, dummyByte]
  | .readn r n _ _ => if n = 0 then none else some (List.replicate n (addrRead r) ++ [dummyByte])
  | .init => none
  | .reserved5 | .reserved6 | .reserved7 => none
  | .addrW _ | .addrR _ | .dummy => none

/-! ### The decoder -/

/-- The register operand: 0 to 63, or `R_REG_RANGE` (R80). -/
def decodeReg (n : Nat) : Except Reject RegAddr :=
  if n < 64 then .ok (BitVec.ofNat 6 n) else .error .regRange

/-- The count operand: 0 to `COUNT_MAX`, or `R_COUNT_RANGE` (R80). -/
def decodeCount (countMax : Nat) (n : Int) : Except Reject Nat :=
  if 0 ≤ n ∧ n ≤ (countMax : Int) then .ok n.toNat else .error .countRange

/-- The rxAlign operand: 0 to 7, or `R_ALIGN_RANGE` (R80). -/
def decodeAlign (n : Nat) : Except Reject Align :=
  if n < 8 then .ok (BitVec.ofNat 3 n) else .error .alignRange

/-- A command record (R76), its checks in the order of 60_exceptions.md R176 step 1. -/
def decodeRecord (countMax : Nat) (r : Record) : Except Reject Instr :=
  match r.op with
  | 0 => match decodeReg r.reg with
    | .ok a => .ok (.write1 a r.value)
    | .error e => .error e
  | 1 => match decodeReg r.reg with
    | .ok a => match decodeCount countMax r.count with
      | .ok n => .ok (.writen a n r.buf)
      | .error e => .error e
    | .error e => .error e
  | 2 => match decodeReg r.reg with
    | .ok a => .ok (.read1 a)
    | .error e => .error e
  | 3 => match decodeReg r.reg with
    | .ok a => match decodeCount countMax r.count with
      | .ok n => match decodeAlign r.rxAlign with
        | .ok ra => .ok (.readn a n r.buf ra)
        | .error e => .error e
      | .error e => .error e
    | .error e => .error e
  | 4 => .ok .init
  | 5 => .ok .reserved5
  | 6 => .ok .reserved6
  | 7 => .ok .reserved7
  | _ + 8 => .error .badOp

/-- A wire byte at its place in the frame (R71, R74, R78, R81). -/
def decodeWire (pos : WirePos) (b : Byte) : Except Reject Instr :=
  match pos with
  | .address =>
    if addrReserved b then .error .addrLowBit
    else if addrIsRead b then .ok (.addrR (addrReg b))
    else .ok (.addrW (addrReg b))
  | .readEnd => if b = dummyByte then .ok .dummy else .error .dummyNotZero

/-- The decoder: total, rejecting by name. -/
def decode (countMax : Nat) : Code → Except Reject Instr
  | .command r => decodeRecord countMax r
  | .wire pos b => decodeWire pos b

/-! ### The encoder -/

/-- The command record of an instruction (R76); a wire form has none, and gets the record of no operation. -/
def encodeRecord : Instr → Record
  | .write1 r v => { op := 0, reg := r.toNat, value := v }
  | .writen r n b => { op := 1, reg := r.toNat, count := n, buf := b }
  | .read1 r => { op := 2, reg := r.toNat }
  | .readn r n b ra => { op := 3, reg := r.toNat, count := n, buf := b, rxAlign := ra.toNat }
  | .init => { op := 4 }
  | .reserved5 => { op := 5 }
  | .reserved6 => { op := 6 }
  | .reserved7 => { op := 7 }
  | .addrW _ | .addrR _ | .dummy => { op := 8 }

/-- The code of an instruction: a record for a command, a byte at its place for a wire form. -/
def encode (i : Instr) : Code :=
  match i with
  | .addrW r => .wire .address (addrWrite r)
  | .addrR r => .wire .address (addrRead r)
  | .dummy => .wire .readEnd dummyByte
  | .write1 _ _ | .writen _ _ _ | .read1 _ | .readn _ _ _ _ | .init => .command (encodeRecord i)
  | .reserved5 | .reserved6 | .reserved7 => .command (encodeRecord i)

/-! ### The bus monitor -/

/-- The bytes of a read frame after the first: the same address again, and 0x00 at the end (R78). -/
def isReadTail (a : Byte) : List Byte → Bool
  | [] => false
  | [b] => b == dummyByte
  | b :: c :: rest => b == a && isReadTail a (c :: rest)

/-- The bus monitor of R78: what the bytes exchanged while chip-select is LOW say. -/
def decodeFrame : List Byte → Except Reject WireFrame
  | [] => .error .notAFrame
  | a :: rest =>
    if addrReserved a then .error .addrLowBit
    else if addrIsRead a then
      if isReadTail a rest then .ok (.read (addrReg a) rest.length) else .error .notAFrame
    else .ok (.write (addrReg a) rest)

/-! ### The opcode table's numbering -/

/-- The code that stands for the bits w of an opcode-table row. The table gives a command row only its selector,
bits 2:0, and a wire row one byte with bit 0 clear; a number below 8 is read as a selector. DESIGN CHOICE (log 11). -/
def tableCode (nbits w : Nat) : Code :=
  let b := w % 2 ^ nbits
  if b < 8 then .command { op := b }
  else if b < 256 ∧ b % 2 = 0 then .wire .address (BitVec.ofNat 8 b)
  else .command { op := b % 8 }

/-- The instruction the decoder reads from the bits w of an opcode-table row. -/
def decodeTableWord (nbits w : Nat) : Option Instr :=
  match decode Config.countMax (tableCode nbits w) with
  | .ok i => some i
  | .error _ => none

end Sys2Proof
end

