-- ==== Sys2Proof/Machine/State.lean ====
section
/-! DEFINITION. The state: everything 10_state.md gives the machine, the caller's buffers, and the inputs of the
agents outside the block. Reset is construction (70_reset_and_hazards.md R190). -/

namespace Sys2Proof.Machine

/-- One framer instance (R185): configuration, pins, fault register, event history, sequencer, datapath, and what
it exchanges with the HOST and the BUS. -/
structure Framer where
  /-- `CFG` (R20). -/
  cfg     : Cfg
  /-- `PIN[CFG.CS_PIN]` (R23). -/
  cs      : Pin
  /-- `PIN[CFG.RST_PIN]`, when it is configured and is another pin (R23). -/
  rst     : Pin
  /-- `FAULT` (R26). -/
  fault   : Option FaultCode
  /-- `TRACE` (R31). -/
  trace   : List Event
  /-- `PHASE` (R22). -/
  phase   : Phase
  /-- `K` (R22). -/
  k       : Nat
  /-- The model's own: the event INIT performs next, while it runs its pin sequence; `PHASE` is IDLE until DONE (R22).
  It is looked at in IDLE only (log 22). -/
  initAt  : Option InitStep
  /-- The datapath registers (R21). -/
  dp      : Datapath
  /-- The model's own: the results the HOST got back, one per operation that returned (R32). -/
  results : List Result
  /-- The model's own: the commands the HOST has issued and the instance has not taken yet (R188). -/
  inbox   : List Record
  /-- The model's own: the bytes the BUS will answer, in order (R33). -/
  rxIn    : List Byte
  /-- The model's own: the levels the BUS will answer, in order (R33). -/
  lvlIn   : List Level
  deriving DecidableEq, Repr

/-- The machine. -/
structure State where
  /-- The framer instances, `N_INSTANCES` of them (R6, R185). -/
  insts    : List Framer
  /-- `BUS_OWNER` (R25). -/
  busOwner : Option Agent
  /-- The caller's buffers (R50). -/
  bufs     : List Buffer
  /-- The parameter `COUNT_MAX` (R6), never written. -/
  countMax : Nat
  /-- The model's own: the instance that moves. -/
  cur      : Nat
  /-- The model's own: the turns to come; when there is none, instance `cur` moves, a whole operation at a time. -/
  turns    : List Turn
  /-- The model's own: the counter of free values. -/
  free     : Nat
  deriving DecidableEq, Repr

/-- Why the machine can take no step. -/
inductive Fault where
  /-- Raised by a command or a turn of an instance whose `FAULT` is set: it takes no further step (R26). Safe. -/
  | framerFaulted
  /-- Raised by a turn of an instance that does not exist (R185). Safe. -/
  | noFramer
  /-- Raised when the slots a buffer lends to a call are touched by another agent (R64: not modelled). Safe. -/
  | bufferLent
  deriving DecidableEq, Repr

/-- Why an instruction has no meaning. -/
inductive Refusal where
  /-- Raised by an arm of exec whose instruction is not modelled. Safe. -/
  | notModelled (mnemonic : String)
  /-- Raised by step on a command the decoder refuses, by the reserved selectors, and by a count above `COUNT_MAX` (R80). Safe. -/
  | rejected (e : Reject)
  /-- Raised by a wire form that is not the next byte of an open frame: the block sends no such byte (R77,
  R78; the refusal is log 15). Safe. -/
  | notNextInFrame
  deriving DecidableEq, Repr

/-- An instance right after construction with the configuration c (R34). -/
def Framer.construct (c : Cfg) : Framer :=
  { cfg := c, cs := Pin.unk, rst := Pin.unk, fault := none, trace := [], phase := .idle, k := 0,
    initAt := none, dp := Datapath.zero, results := [], inbox := [], rxIn := [], lvlIn := [] }

/-- The machine right after construction with these configurations and this `COUNT_MAX` (R34, R190). -/
def State.construct (cfgs : List Cfg) (countMax : Nat) : State :=
  { insts := cfgs.map Framer.construct, busOwner := none, bufs := [], countMax := countMax, cur := 0, turns := [],
    free := 0 }

/-- The machine right after reset. -/
def State.reset : State := State.construct Config.cfgs Config.countMax

end Sys2Proof.Machine
end

