-- ==== Sys2Proof/Machine/Memory.lean ====
section
/-! DEFINITION. The caller's buffers (20_memory.md R50, R52): reading and writing one slot, keeping the cells in rising
order below the length, and the buffers by name. A slot nothing has written holds no value. -/

namespace Sys2Proof.Machine

/-- The value of slot i, if it holds one. -/
def cellRead (i : Nat) : List (Nat × Byte) → Option Byte
  | [] => none
  | (a, v) :: rest => if a = i then some v else cellRead i rest

/-- The cells with slot i holding v, in rising order. -/
def cellWrite (i : Nat) (v : Byte) : List (Nat × Byte) → List (Nat × Byte)
  | [] => [(i, v)]
  | (a, w) :: rest =>
    if i < a then (i, v) :: (a, w) :: rest
    else if i = a then (i, v) :: rest
    else (a, w) :: cellWrite i v rest

/-- The canonical form: slots strictly rising, from lo on, below len. -/
def cellsWf (lo len : Nat) : List (Nat × Byte) → Bool
  | [] => true
  | (a, _) :: rest => decide (lo ≤ a) && decide (a < len) && cellsWf (a + 1) len rest

/-- The buffer with no slot. A name no buffer has been defined for stands for it. DESIGN CHOICE (log 7). -/
def Buffer.empty : Buffer := ⟨0, []⟩

/-- The canonical form of a buffer. -/
def Buffer.wf (b : Buffer) : Bool := cellsWf 0 b.len b.cells

/-- `MemRead(i, 1)` of R52: the slot as an optional byte. -/
def Buffer.read (b : Buffer) (i : Nat) : Option Byte := cellRead i b.cells

/-- `MemWrite(i, 1, v)` of R52. An index outside the buffer is never written. -/
def Buffer.write (b : Buffer) (i : Nat) (v : Byte) : Buffer :=
  if i < b.len then { b with cells := cellWrite i v b.cells } else b

/-- The cells of a list of slots, the first of which has index i. -/
def cellsOf (i : Nat) : List (Option Byte) → List (Nat × Byte)
  | [] => []
  | none :: rest => cellsOf (i + 1) rest
  | some v :: rest => (i, v) :: cellsOf (i + 1) rest

/-- A buffer written out slot by slot, as 95_test_vectors.md writes it. -/
def Buffer.ofSlots (slots : List (Option Byte)) : Buffer := ⟨slots.length, cellsOf 0 slots⟩

/-- The slots of a buffer, in order. -/
def Buffer.slots (b : Buffer) : List (Option Byte) := (List.range b.len).map b.read

/-- The buffer of a name. -/
def bufAt (bufs : List Buffer) (b : Nat) : Buffer := bufs.getD b Buffer.empty

/-- The buffers with one of them replaced; names in between get the empty buffer. -/
def placeBuf : List Buffer → Nat → Buffer → List Buffer
  | [], 0, x => [x]
  | [], n + 1, x => Buffer.empty :: placeBuf [] n x
  | _ :: l, 0, x => x :: l
  | y :: l, n + 1, x => y :: placeBuf l n x

/-- Every buffer is in canonical form. -/
def bufsWf (bufs : List Buffer) : Bool := bufs.all Buffer.wf

end Sys2Proof.Machine
end

