-- ==== Sys2Proof/Machine/Ops.lean ====
section
/-! DEFINITION. The primitives of 00_scope.md R8 over what one instance sees (`View`), and raising a fault
(60_exceptions.md R171). Each primitive appends its event to TRACE (10_state.md R31). -/

namespace Sys2Proof.Machine

/-- What one framer instance sees: itself and its index, the bus register, the caller's buffers, the parameter
`COUNT_MAX`, the counter of free values, and which buffers are lent to calls of the other instances. -/
structure View where
  me       : Nat
  inst     : Framer
  owner    : Option Agent
  bufs     : List Buffer
  countMax : Nat
  free     : Nat
  lent     : List Nat
  deriving DecidableEq, Repr

/-- An instance between its command and its return (10_state.md R22): in IDLE only while INIT runs its pin sequence. -/
def Framer.busy (f : Framer) : Bool :=
  match f.phase with
  | .idle => f.initAt.isSome
  | .faulted => false
  | .acq | .sel | .xfer | .desel | .rel | .done => true

/-- Whether an instance is lent slots of the buffer b for the call it is in: slots 0..CNT-1 (20_memory.md R64). -/
def Framer.holds (f : Framer) (b : Nat) : Bool :=
  f.busy && (f.dp.opr == .writen || f.dp.opr == .readn) && decide (1 ≤ f.dp.cnt) && f.dp.buf == b

/-- Whether the slots the buffer b, whose contents are x, lends to instance f stand unchanged in a new definition of it
(20_memory.md R64, 60_exceptions.md R188): the slots from CNT on are the HOST's to change. -/
def Framer.leavesLent (f : Framer) (b : Nat) (x : Buffer) (slots : List (Option Byte)) : Bool :=
  !f.holds b || (List.range f.dp.cnt).all fun i => slots[i]? == some (x.read i)

/-- The buffer an instance holds, as a list of at most one. -/
def Framer.held (f : Framer) : List Nat := if f.holds f.dp.buf then [f.dp.buf] else []

/-- The buffers lent to the instances of a list, the first of which has index j, but for instance k. -/
def lentExcept (k : Nat) (j : Nat) : List Framer → List Nat
  | [] => []
  | f :: fs => (if j = k then [] else f.held) ++ lentExcept k (j + 1) fs

/-- What instance `cur` sees, when it is f. -/
def State.view (s : State) (f : Framer) : View :=
  { me := s.cur, inst := f, owner := s.busOwner, bufs := s.bufs, countMax := s.countMax, free := s.free,
    lent := lentExcept s.cur 0 s.insts }

/-- The machine after instance `cur` has become what the view says; nothing of another instance changes. -/
def State.put (s : State) (v : View) : State :=
  { s with insts := s.insts.set s.cur v.inst, busOwner := v.owner, bufs := v.bufs, free := v.free }

/-- Let instance `cur` act. -/
def State.onSelf (s : State) (act : View → Host.Outcome View Fault Refusal) : Host.Outcome State Fault Refusal :=
  match s.insts[s.cur]? with
  | none => .fault .noFramer
  | some f => match act (s.view f) with
    | .next v => .next (s.put v)
    | .fault r => .fault r
    | .refused r => .refused r

/-! ### Registers of the instance -/

/-- Append one event to TRACE (R31). -/
def View.emit (v : View) (e : Event) : View := { v with inst := { v.inst with trace := v.inst.trace ++ [e] } }

/-- Move the sequencer to a phase (R22). -/
def View.goto (v : View) (p : Phase) : View := { v with inst := { v.inst with phase := p } }

/-- Move INIT's pin sequence to an event (R22). -/
def View.gotoInit (v : View) (st : InitStep) : View := { v with inst := { v.inst with initAt := some st } }

/-- Write the datapath registers (R21). -/
def View.setDp (v : View) (d : Datapath) : View := { v with inst := { v.inst with dp := d } }

/-! ### Pins (10_state.md R23) -/

/-- The level a driven pin has. -/
def Level.toPin : Level → PinLvl
  | .low => .low
  | .high => .high

/-- The direction a pin has once it is set. -/
def Dir.toPin : Dir → PinDir
  | .input => .input
  | .output => .output

/-- `PIN[p]`, for a configured pin; the block holds no other pin. One storage per pin id: where both
configuration fields name the same pin, it is the chip-select's. -/
def Framer.pin (f : Framer) (p : PinId) : Option Pin :=
  if p = f.cfg.csPin then some f.cs else if f.cfg.rstPin = some p then some f.rst else none

/-- Change `PIN[p]`. -/
def Framer.modPin (f : Framer) (p : PinId) (g : Pin → Pin) : Framer :=
  if p = f.cfg.csPin then { f with cs := g f.cs }
  else if f.cfg.rstPin = some p then { f with rst := g f.rst }
  else f

/-- `PIN[p].dir <- d`. -/
def View.setDir (v : View) (p : PinId) (d : Dir) : View :=
  { v with inst := v.inst.modPin p fun x => { x with dir := d.toPin } }

/-- `PIN[p].lvl <- l`. -/
def View.setLvl (v : View) (p : PinId) (l : Level) : View :=
  { v with inst := v.inst.modPin p fun x => { x with lvl := l.toPin } }

/-- `PinMode(p, d)`. -/
def View.pinMode (v : View) (p : PinId) (d : Dir) : View := (v.setDir p d).emit (.pinMode p d)

/-- `PinWrite(p, l)` outside a transaction. -/
def View.pinWrite (v : View) (p : PinId) (l : Level) : View := (v.setLvl p l).emit (.pinWrite p l)

/-- `PinWrite(CFG.CS_PIN, l)` during a transaction: the event `CS(l)` (R31). -/
def View.csWrite (v : View) (l : Level) : View := (v.setLvl v.inst.cfg.csPin l).emit (.cs l)

/-- The level the BUS answers a sample with: the next input, or a free value (R33). -/
def View.drawLevel (v : View) : Level × View :=
  match v.inst.lvlIn with
  | l :: ls => (l, { v with inst := { v.inst with lvlIn := ls } })
  | [] => (Config.levelDraw v.free, { v with free := v.free + 1 })

/-- `l <- PinRead(p)`: changes neither direction nor level (R23). -/
def View.pinRead (v : View) (p : PinId) : Level × View :=
  (v.drawLevel.1, v.drawLevel.2.emit (.pinRead p v.drawLevel.1))

/-- `Delay(ms)`; no time is modelled (42_init_sequencer.md R158). -/
def View.delay (v : View) (ms : Nat) : View := v.emit (.delay ms)

/-! ### The bus (10_state.md R25) -/

/-- `Begin(CFG.BUS)`, when the bus is free: acquire it. -/
def View.busBegin (v : View) : View :=
  { v with owner := some (.framer v.me) }.emit (.busBegin v.inst.cfg.bus)

/-- `End()`: release the bus. -/
def View.busEnd (v : View) : View := { v with owner := none }.emit .busEnd

/-- The byte the BUS answers a transfer with: the next input, or a free value (R33). -/
def View.drawByte (v : View) : Byte × View :=
  match v.inst.rxIn with
  | b :: bs => (b, { v with inst := { v.inst with rxIn := bs } })
  | [] => (Config.rxDraw v.free, { v with free := v.free + 1 })

/-- `rx <- Xfer(tx)`; the received byte is also latched in RXL (R21). -/
def View.xfer (v : View) (tx : Byte) : Byte × View :=
  (v.drawByte.1,
    (v.drawByte.2.setDp { v.drawByte.2.inst.dp with rxl := v.drawByte.1 }).emit (.xfer tx v.drawByte.1))

/-- The j-th byte the BUS answers from here on (j from 0): the inputs first, then free values. -/
def rxNth (rxIn : List Byte) (free j : Nat) : Byte :=
  match rxIn[j]? with
  | some b => b
  | none => Config.rxDraw (free + (j - rxIn.length))

/-- The next n bytes the BUS answers. -/
def rxSeq (rxIn : List Byte) (free n : Nat) : List Byte := (List.range n).map (rxNth rxIn free)

/-- The level the BUS answers the next sample with. -/
def nextLevel (lvlIn : List Level) (free : Nat) : Level := lvlIn.headD (Config.levelDraw free)

/-! ### The caller's buffer (20_memory.md R52) -/

/-- The event of `MemRead(i, 1)`, whose value is v. -/
def View.memRead (v : View) (i : Nat) (x : Byte) : View := v.emit (.bufRd i x)

/-- `MemWrite(i, 1, x)` on the lent buffer. -/
def View.memWrite (v : View) (i : Nat) (x : Byte) : View :=
  { v with bufs := v.bufs.modify v.inst.dp.buf fun b => b.write i x }.emit (.bufWr i x)

/-! ### Faults and return -/

/-- The code of a fault: the first column of the table of 60_exceptions.md R175. -/
def FaultCode.number : FaultCode → Nat
  | .notInit _ => 1
  | .bufBounds _ _ _ => 2
  | .undefRead _ _ => 3

/-- `raise Fault(code)` of 60_exceptions.md R171: FAULT is set, and nothing else but the phase; the instance stops. -/
def View.raise (v : View) (c : FaultCode) : View :=
  { v with inst := { v.inst with fault := some c, phase := .faulted } }

/-- The return of an operation: its result goes to the HOST, the step counter is `(IDLE, 0)`, and what the
datapath registers hold is unspecified from here on (10_state.md R21, R22). -/
def View.ret (v : View) : View :=
  { v with
    inst := { v.inst with
      results := v.inst.results ++ [v.inst.dp.res], phase := .idle, k := 0, initAt := none, dp := Config.idleDatapath v.free },
    free := v.free + 1 }

/-- A command that finds the instance busy is held: it stays with the HOST (60_exceptions.md R178). -/
def View.hold (v : View) (cmd : Instr) : View :=
  { v with inst := { v.inst with inbox := encodeRecord cmd :: v.inst.inbox } }

end Sys2Proof.Machine
end

