-- ==== Sys2Proof/Machine/Operands.lean ====
section
/-! DEFINITION. What a command finds at entry: the checks of 60_exceptions.md R176 in their order, the values of the
buffer slots it reads, the receive aligner's merge (41_register_read.md R125), and the datapath registers it loads.
There are no flags (10_state.md R27). -/

namespace Sys2Proof.Machine

/-- The receive aligner of R125: bits under the mask from the received byte, the others kept. -/
def rxMerge (mask old rx : Byte) : Byte := (old &&& ~~~mask) ||| (rx &&& mask)

/-- The lowest slot of a list that holds no value (R173). -/
def firstUndef (b : Buffer) : List Nat → Option Nat
  | [] => none
  | i :: is => if (b.read i).isNone then some i else firstUndef b is

/-- The slots a READN reads: slot 0 when rxAlign is not 0 (R130). -/
def alignReads (ra : Align) : List Nat := if ra = 0 then [] else [0]

/-- Steps 5 to 7 of R176: `F_NOT_INIT` (R174), `F_BUF_BOUNDS` for n slots (R172), `F_UNDEF_READ` for the slots read (R173). -/
def entryFault (cmd : Instr) (n : Nat) (b : Buffer) (reads : List Nat) (f : Framer) : Option FaultCode :=
  if f.cs ≠ Pin.deselected then some (.notInit cmd)
  else if b.len < n then some (.bufBounds cmd n b.len)
  else match firstUndef b reads with
    | some i => some (.undefRead cmd i)
    | none => none

/-- The values of slots 0..n-1 (R103). Every one of them is defined once the entry checks have passed. -/
def slotVals (b : Buffer) (n : Nat) : List Byte := (List.range n).filterMap b.read

/-- Take the command: its datapath registers, and the step counter at the start of the transaction bracket
(10_state.md R22, 40_register_write.md R101). -/
def View.accept (v : View) (d : Datapath) : View :=
  { v with inst := { v.inst with dp := d, phase := .acq, k := 0 } }

/-- The entry of a transfer operation that touches n slots of the buffer named b and reads those of `reads`:
a fault (R176 steps 5 to 7), or the command taken. A buffer lent to another call is not to be touched (20_memory.md R64). -/
def View.enter (v : View) (cmd : Instr) (n b : Nat) (reads : List Nat) (d : Datapath) :
    Host.Outcome View Fault Refusal :=
  match entryFault cmd n (bufAt v.bufs b) reads v.inst with
  | some c => .next (v.raise c)
  | none => if n ≠ 0 ∧ v.lent.contains b = true then .fault .bufferLent else .next (v.accept d)

/-- Step 2 of R176, and R178: a faulted instance takes no step, a busy one holds the command. -/
def View.guarded (v : View) (cmd : Instr) (act : View → Host.Outcome View Fault Refusal) :
    Host.Outcome View Fault Refusal :=
  if v.inst.fault.isSome then .fault .framerFaulted
  else if v.inst.busy then .next (v.hold cmd)
  else act v

/-- The bytes a command plans to send (30_encoding.md R77); none where it opens no transaction. -/
def planOf (vals : List Byte) (i : Instr) : List Byte := (planTx vals i).getD []

/-- WRITE1's registers: the frame `[AW(r), v]` (R100). DESIGN CHOICE (log 5): CNT and IDX, which 10_state.md R21 gives
the block forms only, are 0. -/
def loadWrite1 (r : RegAddr) (x : Byte) (d : Datapath) : Datapath :=
  { d with opr := .write1, reg := r, addr := addrWrite r, cnt := 0, idx := 0, res := .none,
           plan := planOf [] (.write1 r x) }

/-- WRITEN's registers: the frame `[AW(r), slots 0..n-1]` (R103). -/
def loadWriten (r : RegAddr) (n b : Nat) (vals : List Byte) (d : Datapath) : Datapath :=
  { d with opr := .writen, reg := r, addr := addrWrite r, cnt := n, idx := 0, res := .none, buf := b,
           plan := planOf vals (.writen r n b) }

/-- READ1's registers: the frame `[AR(r), 0x00]` (R120). DESIGN CHOICE (log 5): CNT and IDX, which 10_state.md R21 gives
the block forms only, are 0. -/
def loadRead1 (r : RegAddr) (d : Datapath) : Datapath :=
  { d with opr := .read1, reg := r, addr := addrRead r, cnt := 0, idx := 0, res := .none,
           plan := planOf [] (.read1 r) }

/-- READN's registers: the frame `[AR(r)] x n ++ [0x00]`, the mask, and slot 0 at entry (R123, R125). -/
def loadReadn (r : RegAddr) (n b : Nat) (ra : Align) (slot0 : Option Byte) (d : Datapath) : Datapath :=
  { d with opr := .readn, reg := r, addr := addrRead r, cnt := n, idx := 0, mask := rxMask ra, ra := ra, res := .none,
           buf := b, old := slot0.getD d.old, plan := planOf [] (.readn r n b ra) }

end Sys2Proof.Machine
end

