-- ==== Sys2Proof/Machine/Pins.lean ====
section
/-! DEFINITION. INIT's pin sequence (42_init_sequencer.md R150), one event at a time, so that other agents' events may come
between two of them (R154, 20_memory.md R58). -/

namespace Sys2Proof.Machine

/-- Take INIT: the step counter at `(IDLE, 0)`, where R22 starts every operation, and its first event next. -/
def View.beginInit (v : View) : View :=
  { v with inst := { v.inst with
      dp := { v.inst.dp with opr := .init, res := .none }, phase := .idle, k := 0, initAt := some .csMode } }

/-- INIT's pin sequence is over: its result (R153), and DONE (10_state.md R22). -/
def View.initDone (v : View) (b : Bool) : View :=
  { v with inst := { v.inst with dp := { v.inst.dp with res := .bool b }, phase := .done, initAt := none } }

/-- The reset branch goes on with the reset pin; where none is configured it is over (R152). -/
def View.onRst (v : View) (act : PinId → View → View) : View :=
  match v.inst.cfg.rstPin with
  | none => v.initDone false
  | some p => act p v

/-- Where the sampled level leads: LOW to the exit from hard power-down, HIGH to the end (R152). -/
def View.afterSample (v : View) (l : Level) : View :=
  match l with
  | .low => v.gotoInit .rstOut
  | .high => v.initDone false

/-- One event of R150's pseudocode, and where it goes on. Only the sampled level decides the reset branch (R152). -/
def View.initStep (v : View) : InitStep → View
  | .csMode => (v.pinMode v.inst.cfg.csPin .output).gotoInit .csHigh
  | .csHigh => (v.pinWrite v.inst.cfg.csPin .high).onRst fun _ w => w.gotoInit .rstMode
  | .rstMode => v.onRst fun p w => (w.pinMode p .input).gotoInit .rstRead
  | .rstRead => v.onRst fun p w => (w.pinRead p).2.afterSample (w.pinRead p).1
  | .rstOut => v.onRst fun p w => (w.pinMode p .output).gotoInit .rstHigh
  | .rstHigh => v.onRst fun p w => (w.pinWrite p .high).gotoInit .settle
  | .settle => (v.delay Config.resetSettleMs).initDone true

/-- The next event of INIT; an instance at rest does nothing. -/
def View.advanceInit (v : View) : View :=
  match v.inst.initAt with
  | none => v
  | some st => v.initStep st

/-- How many events INIT makes at most from here on. -/
def InitStep.left : InitStep → Nat
  | .csMode => 7
  | .csHigh => 6
  | .rstMode => 5
  | .rstRead => 4
  | .rstOut => 3
  | .rstHigh => 2
  | .settle => 1

/-- At most n events of INIT in a row. -/
def View.runInit : Nat → View → View
  | 0, v => v
  | n + 1, v => runInit n v.advanceInit

end Sys2Proof.Machine
end

