-- ==== Sys2Proof/Machine/Sequencer.lean ====
section
/-! DEFINITION. The sequencer of 10_state.md R22 over the transaction bracket of 40_register_write.md R101 and INIT's pin
sequence: one event at a time (`advance`), or to the operation's return (`finish`, 00_scope.md R9). -/

namespace Sys2Proof.Machine

/-- ACQ: `Begin(CFG.BUS)`, held while the bus is owned (20_memory.md R58). -/
def View.acquire (v : View) : View := if v.owner = none then v.busBegin.goto .sel else v

/-- SEL: chip-select asserted. -/
def View.select (v : View) : View := (v.csWrite .low).goto .xfer

/-- DESEL: chip-select deasserted. -/
def View.deselect (v : View) : View := (v.csWrite .high).goto .rel

/-- REL: `End()`. -/
def View.release (v : View) : View := v.busEnd.goto .done

/-- Before a transfer: WRITEN reads the slot it is about to send (R103). -/
def View.beforeXfer (v : View) (tx : Byte) : View :=
  if v.inst.dp.opr = .writen ∧ v.inst.k ≠ 0 then
    (v.memRead v.inst.dp.idx tx).setDp { v.inst.dp with idx := v.inst.dp.idx + 1 }
  else v

/-- A READN's store of the byte rx into the slot IDX: merged into slot 0 when rxAlign is not 0, plain otherwise
(41_register_read.md R123, R125). -/
def View.store (v : View) (rx : Byte) : View :=
  if v.inst.dp.idx = 0 ∧ v.inst.dp.ra ≠ 0 then
    (v.memRead 0 v.inst.dp.old).memWrite 0 (rxMerge v.inst.dp.mask v.inst.dp.old rx)
  else v.memWrite v.inst.dp.idx rx

/-- After a transfer: the received byte goes where the lag-by-one protocol says (41_register_read.md R124). The byte of
the priming transfer and those of a write frame are discarded (R105). -/
def View.afterXfer (v : View) (rx : Byte) : View :=
  match v.inst.dp.opr with
  | .read1 => if v.inst.k = 1 then v.setDp { v.inst.dp with res := .byte rx } else v
  | .readn =>
    if v.inst.k = 0 then v
    else (v.store rx).setDp { v.inst.dp with idx := v.inst.dp.idx + 1 }
  | .write1 | .writen | .init => v

/-- K advances by 1; after the last transfer comes DESEL (10_state.md R22). -/
def View.countXfer (v : View) : View :=
  { v with inst := { v.inst with
      k := v.inst.k + 1,
      phase := if v.inst.k + 1 < v.inst.dp.plan.length then .xfer else .desel } }

/-- XFER: the K-th transfer of the planned frame, with its buffer events. -/
def View.xferStep (v : View) : View :=
  match v.inst.dp.plan[v.inst.k]? with
  | none => v.goto .desel
  | some tx =>
    (((v.beforeXfer tx).xfer tx).2.afterXfer ((v.beforeXfer tx).xfer tx).1).countXfer

/-- n transfers in a row. -/
def View.xferMany : Nat → View → View
  | 0, v => v
  | n + 1, v => xferMany n v.xferStep

/-- The transfers the frame still has. -/
def View.xferLeft (v : View) : Nat := v.inst.dp.plan.length - v.inst.k

/-- One event of the operation in progress. -/
def View.advance (v : View) : View :=
  match v.inst.phase with
  | .idle => v.advanceInit
  | .faulted => v
  | .acq => v.acquire
  | .sel => v.select
  | .xfer => v.xferStep
  | .desel => v.deselect
  | .rel => v.release
  | .done => v.ret

/-- From REL to the return. -/
def View.finishRel (v : View) : View := v.release.ret

/-- From DESEL to the return. -/
def View.finishDesel (v : View) : View := v.deselect.finishRel

/-- From XFER to the return. -/
def View.finishXfer (v : View) : View := (v.xferMany v.xferLeft).finishDesel

/-- From SEL to the return. -/
def View.finishSel (v : View) : View := v.select.finishXfer

/-- From where INIT is in its pin sequence to the return; an instance at rest stays so. -/
def View.finishInit (v : View) : View :=
  match v.inst.initAt with
  | none => v
  | some st => (v.runInit st.left).ret

/-- The operation in progress, run to its return (00_scope.md R9), or held at its Begin (20_memory.md R58). -/
def View.finish (v : View) : View :=
  match v.inst.phase with
  | .idle => v.finishInit
  | .faulted => v
  | .acq => if v.owner = none then v.acquire.finishSel else v
  | .sel => v.finishSel
  | .xfer => v.finishXfer
  | .desel => v.finishDesel
  | .rel => v.finishRel
  | .done => v.ret

/-- A command's entry, then its operation to the return. -/
def thenFinish (act : View → Host.Outcome View Fault Refusal) (v : View) : Host.Outcome View Fault Refusal :=
  match act v with
  | .next w => .next w.finish
  | .fault r => .fault r
  | .refused r => .refused r

end Sys2Proof.Machine
end

