-- ==== Sys2Proof/Machine/Init.lean ====
section
/-! DEFINITION. INIT, the chip-select and reset sequencer (42_init_sequencer.md). Its events are those of
Sys2Proof/Machine/Pins.lean; it opens no transaction and is never held by bus ownership (R154). -/

namespace Sys2Proof.Machine

/-- INIT's entry: no check (60_exceptions.md R176 step 4). -/
def enterInit (v : View) : Host.Outcome View Fault Refusal := .next v.beginInit

/-- INIT up to its first event, for a turn of one event. -/
def issueInit (s : State) : Host.Outcome State Fault Refusal :=
  s.onSelf fun v => v.guarded .init enterInit

/-- INIT (R150): chip-select configured, the chip out of hard power-down; the result says whether a hard reset was
triggered. -/
def execInit (s : State) : Host.Outcome State Fault Refusal :=
  s.onSelf fun v => v.guarded .init (thenFinish enterInit)

end Sys2Proof.Machine
end

