-- ==== Sys2Proof/Machine/Read.lean ====
section
/-! DEFINITION. READ1 and READN with the receive aligner (41_register_read.md). -/

namespace Sys2Proof.Machine

/-- READ1's entry (R120). -/
def enterRead1 (r : RegAddr) (v : View) : Host.Outcome View Fault Refusal :=
  v.enter (.read1 r) 0 0 [] (loadRead1 r v.inst.dp)

/-- READ1 up to its bracket, for a turn of one event. -/
def issueRead1 (r : RegAddr) (s : State) : Host.Outcome State Fault Refusal :=
  s.onSelf fun v => v.guarded (.read1 r) (enterRead1 r)

/-- READ1 r (R120, R121): the frame `[AR(r), 0x00]` in one bracket; the result is the byte of the second transfer. -/
def execRead1 (r : RegAddr) (s : State) : Host.Outcome State Fault Refusal :=
  s.onSelf fun v => v.guarded (.read1 r) (thenFinish (enterRead1 r))

/-- READN's entry (R123): with n = 0 straight to DONE, no check and no event (R126); otherwise the checks, where
slot 0 is read when rxAlign is not 0. -/
def enterReadn (r : RegAddr) (n b : Nat) (ra : Align) (v : View) : Host.Outcome View Fault Refusal :=
  if n = 0 then
    .next ((v.setDp { v.inst.dp with opr := .readn, reg := r, cnt := 0, ra := ra, res := .none }).goto .done)
  else
    v.enter (.readn r n b ra) n b (alignReads ra) (loadReadn r n b ra ((bufAt v.bufs b).read 0) v.inst.dp)

/-- READN up to its bracket, for a turn of one event. -/
def issueReadn (r : RegAddr) (n b : Nat) (ra : Align) (s : State) : Host.Outcome State Fault Refusal :=
  if countOk s.countMax n then s.onSelf fun v => v.guarded (.readn r n b ra) (enterReadn r n b ra)
  else .refused (.rejected .countRange)

/-- READN r, n, buf, ra (R123-R130): the frame `[AR(r)] x n ++ [0x00]` in one bracket; slot i receives the byte of
transfer i + 1, slot 0 under `MASK(ra)`; with n = 0 nothing. A count above `COUNT_MAX` is refused (30_encoding.md R80). -/
def execReadn (r : RegAddr) (n b : Nat) (ra : Align) (s : State) : Host.Outcome State Fault Refusal :=
  if countOk s.countMax n then s.onSelf fun v => v.guarded (.readn r n b ra) (thenFinish (enterReadn r n b ra))
  else .refused (.rejected .countRange)

end Sys2Proof.Machine
end

