-- ==== Sys2Proof/Machine/Wire.lean ====
section
/-! DEFINITION. The wire byte forms ADDR_W, ADDR_R and DUMMY (30_encoding.md R72-R74), and the reserved selectors (R80).
A wire form is one byte of a frame: it runs where the sequencer is about to send exactly that byte, and is then
that one transfer. -/

namespace Sys2Proof.Machine

/-- The wire code an instance sends next, read by its place in the frame (R78); a data byte of a write frame has none. -/
def Framer.nextWire (f : Framer) : Option Code :=
  match f.dp.plan[f.k]? with
  | none => none
  | some b => match f.dp.opr with
    | .write1 | .writen => if f.k = 0 then some (.wire .address b) else none
    | .read1 | .readn =>
      if f.k + 1 < f.dp.plan.length then some (.wire .address b) else some (.wire .readEnd b)
    | .init => none

/-- One wire form: the transfer the sequencer is about to do, or no byte of the frame the block is sending (R77, R78), which the
model refuses (log 15). -/
def View.wireStep (c : Code) (v : View) : Host.Outcome View Fault Refusal :=
  if v.inst.fault.isSome then .fault .framerFaulted
  else if v.inst.phase = .xfer ∧ v.inst.nextWire = some c then .next v.xferStep
  else .refused .notNextInFrame

/-- ADDR_W r: the address byte `AW(r)` of a write frame is exchanged (R72, R78). -/
def execAddrW (r : RegAddr) (s : State) : Host.Outcome State Fault Refusal :=
  s.onSelf (View.wireStep (encode (.addrW r)))

/-- ADDR_R r: an address byte `AR(r)` of a read frame is exchanged (R73, R78). -/
def execAddrR (r : RegAddr) (s : State) : Host.Outcome State Fault Refusal :=
  s.onSelf (View.wireStep (encode (.addrR r)))

/-- DUMMY: the last byte 0x00 of a read frame is exchanged (R74, 41_register_read.md R128). -/
def execDummy (s : State) : Host.Outcome State Fault Refusal :=
  s.onSelf (View.wireStep (encode .dummy))

/-- Selector 5: refused, `R_BAD_OP` (R80). -/
def execReserved5 (_s : State) : Host.Outcome State Fault Refusal := .refused (.rejected .badOp)

/-- Selector 6: refused, `R_BAD_OP` (R80). -/
def execReserved6 (_s : State) : Host.Outcome State Fault Refusal := .refused (.rejected .badOp)

/-- Selector 7: refused, `R_BAD_OP` (R80). -/
def execReserved7 (_s : State) : Host.Outcome State Fault Refusal := .refused (.rejected .badOp)

end Sys2Proof.Machine
end

