-- ==== Sys2Proof/Machine/Write.lean ====
section
/-! DEFINITION. WRITE1 and WRITEN (40_register_write.md). -/

namespace Sys2Proof.Machine

/-- WRITE1's entry (R100). -/
def enterWrite1 (r : RegAddr) (x : Byte) (v : View) : Host.Outcome View Fault Refusal :=
  v.enter (.write1 r x) 0 0 [] (loadWrite1 r x v.inst.dp)

/-- WRITE1 up to its bracket, for a turn of one event. -/
def issueWrite1 (r : RegAddr) (x : Byte) (s : State) : Host.Outcome State Fault Refusal :=
  s.onSelf fun v => v.guarded (.write1 r x) (enterWrite1 r x)

/-- WRITE1 r, x (R100): the frame `[AW(r), x]` in one bracket; no result. -/
def execWrite1 (r : RegAddr) (x : Byte) (s : State) : Host.Outcome State Fault Refusal :=
  s.onSelf fun v => v.guarded (.write1 r x) (thenFinish (enterWrite1 r x))

/-- WRITEN's entry (R103): slots 0..n-1 are read, so they must exist and be defined. -/
def enterWriten (r : RegAddr) (n b : Nat) (v : View) : Host.Outcome View Fault Refusal :=
  v.enter (.writen r n b) n b (List.range n) (loadWriten r n b (slotVals (bufAt v.bufs b) n) v.inst.dp)

/-- WRITEN up to its bracket, for a turn of one event. -/
def issueWriten (r : RegAddr) (n b : Nat) (s : State) : Host.Outcome State Fault Refusal :=
  if countOk s.countMax n then s.onSelf fun v => v.guarded (.writen r n b) (enterWriten r n b)
  else .refused (.rejected .countRange)

/-- WRITEN r, n, buf (R103, R104): the address byte once, then slots 0..n-1 in order, in one bracket; with n = 0
the address byte alone. A count above `COUNT_MAX` is refused (30_encoding.md R80). -/
def execWriten (r : RegAddr) (n b : Nat) (s : State) : Host.Outcome State Fault Refusal :=
  if countOk s.countMax n then s.onSelf fun v => v.guarded (.writen r n b) (thenFinish (enterWriten r n b))
  else .refused (.rejected .countRange)

end Sys2Proof.Machine
end

