-- ==== Sys2Proof/Machine/Dispatch.lean ====
section
/-! DEFINITION. One arm per instruction. -/

namespace Sys2Proof.Machine

def exec (i : Instr) (s : State) : Host.Outcome State Fault Refusal :=
  match i with
  | .write1 reg value => Sys2Proof.Machine.execWrite1 reg value s
  | .writen reg count buf => Sys2Proof.Machine.execWriten reg count buf s
  | .read1 reg => Sys2Proof.Machine.execRead1 reg s
  | .readn reg count buf rxAlign => Sys2Proof.Machine.execReadn reg count buf rxAlign s
  | .init => Sys2Proof.Machine.execInit s
  | .reserved5 => Sys2Proof.Machine.execReserved5 s
  | .reserved6 => Sys2Proof.Machine.execReserved6 s
  | .reserved7 => Sys2Proof.Machine.execReserved7 s
  | .addrW reg => Sys2Proof.Machine.execAddrW reg s
  | .addrR reg => Sys2Proof.Machine.execAddrR reg s
  | .dummy => Sys2Proof.Machine.execDummy s

end Sys2Proof.Machine
end

