-- ==== Sys2Proof/Machine/Turn.lean ====
section
/-! DEFINITION. A turn of each agent of 10_state.md R36: a framer instance fetches and runs its next command or goes on with
the operation in progress; the HOST issues a command or defines a buffer; the PLATFORM owns and releases the bus. -/

namespace Sys2Proof.Machine

/-- Take a command up to its first event: what a turn of one event does at an idle instance. A wire form is no command. -/
def issue (i : Instr) (s : State) : Host.Outcome State Fault Refusal :=
  match i with
  | .write1 r x => issueWrite1 r x s
  | .writen r n b => issueWriten r n b s
  | .read1 r => issueRead1 r s
  | .readn r n b ra => issueReadn r n b ra s
  | .init => issueInit s
  | .reserved5 => execReserved5 s
  | .reserved6 => execReserved6 s
  | .reserved7 => execReserved7 s
  | .addrW r => execAddrW r s
  | .addrR r => execAddrR r s
  | .dummy => execDummy s

/-- Instance `cur` has taken its next command from the HOST. -/
def State.popInbox (s : State) : State :=
  { s with insts := s.insts.modify s.cur fun f => { f with inbox := f.inbox.tail } }

/-- The next command of an instance that is not busy, decoded and given to `run`; none, and the turn passes. A
refused command refuses the whole run (60_exceptions.md R176). -/
def State.fetch (s : State) (f : Framer) (run : Instr → State → Host.Outcome State Fault Refusal) :
    Host.Outcome State Fault Refusal :=
  match f.inbox with
  | [] => if f.fault.isSome then .fault .framerFaulted else .next s
  | r :: _ => match decode s.countMax (.command r) with
    | .error e => .refused (.rejected e)
    | .ok i => run i s.popInbox

/-- A move of the operation in progress; a faulted instance takes none (10_state.md R26). -/
def State.carryOn (s : State) (act : View → View) : Host.Outcome State Fault Refusal :=
  s.onSelf fun v => if v.inst.fault.isSome then .fault .framerFaulted else .next (act v)

/-- A turn of instance `cur`, to the return of its operation (00_scope.md R9). -/
def State.turnWhole (s : State) : Host.Outcome State Fault Refusal :=
  match s.insts[s.cur]? with
  | none => .fault .noFramer
  | some f => if f.busy then s.carryOn View.finish else s.fetch f exec

/-- A turn of instance `cur`, one event long: inside a frame, the next wire byte is decoded and run; a data byte,
which is no row of the opcode table, is sent as it is (30_encoding.md R79). -/
def State.turnEvent (s : State) : Host.Outcome State Fault Refusal :=
  match s.insts[s.cur]? with
  | none => .fault .noFramer
  | some f =>
    if f.busy then
      if f.phase = .xfer then
        match f.nextWire with
        | none => s.carryOn View.advance
        | some c => match decode s.countMax c with
          | .error e => .refused (.rejected e)
          | .ok i => exec i s
      else s.carryOn View.advance
    else s.fetch f issue

/-- The HOST gives instance k its next command (60_exceptions.md R188). -/
def State.hostIssue (s : State) (k : Nat) (r : Record) : Host.Outcome State Fault Refusal :=
  if k < s.insts.length then
    .next { s with insts := s.insts.modify k fun f => { f with inbox := f.inbox ++ [r] } }
  else .fault .noFramer

/-- The HOST defines its buffer b; it must leave the slots lent to a call as they are (20_memory.md R64,
60_exceptions.md R188). -/
def State.hostBuffer (s : State) (b : Nat) (slots : List (Option Byte)) : Host.Outcome State Fault Refusal :=
  if s.insts.all fun f => f.leavesLent b (bufAt s.bufs b) slots then
    .next { s with bufs := placeBuf s.bufs b (Buffer.ofSlots slots) }
  else .fault .bufferLent

/-- Another bus user's `Begin`: enabled when the bus is free, held otherwise (10_state.md R25). -/
def State.platformBegin (s : State) : State :=
  if s.busOwner = none then { s with busOwner := some .platform } else s

/-- Another bus user's `End`. -/
def State.platformEnd (s : State) : State :=
  if s.busOwner = some .platform then { s with busOwner := none } else s

/-- One turn. -/
def State.takeTurn (s : State) : Turn → Host.Outcome State Fault Refusal
  | .framer k .whole => { s with cur := k }.turnWhole
  | .framer k .event => { s with cur := k }.turnEvent
  | .hostIssue k r => s.hostIssue k r
  | .hostBuffer b slots => s.hostBuffer b slots
  | .platformBegin => .next s.platformBegin
  | .platformEnd => .next s.platformEnd

/-- One step: the next turn; when no turn is given, instance `cur` moves, a whole operation at a time. -/
def State.nextTurn (s : State) : Host.Outcome State Fault Refusal :=
  match s.turns with
  | [] => s.turnWhole
  | t :: ts => { s with turns := ts }.takeTurn t

/-! ### An instruction placed where the next step fetches it -/

/-- The datapath of a frame that is about to send the address byte b, and then one byte more. DESIGN CHOICE (log 5): CNT
and IDX are 0. -/
def wireDatapath (b : Byte) (d : Datapath) : Datapath :=
  { d with opr := if addrIsRead b then .read1 else .write1, reg := addrReg b, addr := b, cnt := 0, idx := 0,
           res := .none, plan := [b, dummyByte] }

/-- Instance f with the code c next: a command in its inbox, or a frame open at that byte (the end of a read frame of
register 0 for the dummy). -/
def Framer.withCode (f : Framer) (c : Code) : Framer :=
  match c with
  | .command r => { f with phase := .idle, k := 0, initAt := none, inbox := r :: f.inbox }
  | .wire .address b => { f with phase := .xfer, k := 0, cs := Pin.selected, dp := wireDatapath b f.dp }
  | .wire .readEnd _ => { f with phase := .xfer, k := 1, cs := Pin.selected, dp := wireDatapath (addrRead 0) f.dp }

/-- The bus register that goes with it: an open frame owns the bus (10_state.md R25). -/
def ownerFor (k : Nat) (c : Code) (owner : Option Agent) : Option Agent :=
  match c with
  | .command _ => owner
  | .wire _ _ => some (.framer k)

/-- The turn that goes with it: a whole operation, or the one transfer. -/
def turnFor (k : Nat) (c : Code) : Turn :=
  match c with
  | .command _ => .framer k .whole
  | .wire _ _ => .framer k .event

/-- The state with the code c placed where the next step fetches. -/
def State.withCode (s : State) (c : Code) : State :=
  { s with insts := s.insts.modify s.cur fun f => f.withCode c, busOwner := ownerFor s.cur c s.busOwner,
           turns := turnFor s.cur c :: s.turns }

end Sys2Proof.Machine
end

