-- ==== Sys2Proof/Machine/Step.lean ====
section
/-! DEFINITION. One step of the machine, and an instruction placed where the next step fetches it. -/

namespace Sys2Proof.Machine

/-- One step: one turn of one agent (10_state.md R36, 20_memory.md R58). -/
def step (s : State) : Host.Outcome State Fault Refusal := s.nextTurn

/-- s with the instruction whose opcode-table bits are w placed where the next step fetches: a command in the inbox of
instance `cur`, or, for a wire byte, a frame of that instance open at that byte (log 2). -/
def State.withFetchWord (s : State) (nbits w : Nat) : State := s.withCode (tableCode nbits w)

end Sys2Proof.Machine
end

