-- ==== Sys2Proof/Safety.lean ====
section
/-! DEFINITION. The terms the statements are made in: the invariant of the machine, the conditions under which a command runs,
what a returned operation leaves, and the event lists of the operations as their rules write them. -/

namespace Sys2Proof

/-- The commands that open a transaction, and so ask for an initialised chip-select (R174): all four transfers, but a
READN of count 0. -/
def Instr.opensTransaction : Instr → Bool
  | .write1 _ _ | .writen _ _ _ | .read1 _ => true
  | .readn _ n _ _ => decide (1 ≤ n)
  | .init | .reserved5 | .reserved6 | .reserved7 | .addrW _ | .addrR _ | .dummy => false

/-- The five operations of 00_scope.md R3. -/
def Instr.isOperation : Instr → Bool
  | .write1 _ _ | .writen _ _ _ | .read1 _ | .readn _ _ _ _ | .init => true
  | .reserved5 | .reserved6 | .reserved7 | .addrW _ | .addrR _ | .dummy => false

end Sys2Proof

namespace Sys2Proof.Machine

/-! ### The invariant -/

/-- The phases in which an instance owns the bus: after its Begin, before its End (10_state.md R22, R25). -/
def Phase.onBus : Phase → Bool
  | .sel | .xfer | .desel | .rel => true
  | .idle | .acq | .done | .faulted => false

/-- Chip-select in each phase (R24): LOW exactly from SEL's event to DESEL's, an output driven HIGH elsewhere inside an
operation with a transaction, and not LOW between operations. -/
def Framer.csOk (f : Framer) : Bool :=
  match f.phase with
  | .idle | .faulted | .done => f.cs.lvl != .low
  | .acq | .sel | .rel => f.cs == Pin.deselected
  | .xfer | .desel => f.cs == Pin.selected

/-- The step counter in each phase (R22): K runs from 0 to K_TOTAL, and K_TOTAL is at most COUNT_MAX + 1. -/
def Framer.countOk (countMax : Nat) (f : Framer) : Bool :=
  match f.phase with
  | .idle | .faulted => f.k == 0
  | .acq | .sel => f.k == 0 && decide (0 < f.dp.plan.length) && decide (f.dp.plan.length ≤ countMax + 1)
  | .xfer => decide (f.k < f.dp.plan.length) && decide (f.dp.plan.length ≤ countMax + 1)
  | .desel | .rel => f.k == f.dp.plan.length && decide (f.dp.plan.length ≤ countMax + 1)
  | .done => true

/-- The part of INIT's pin sequence that R150 performs whether or not a reset pin is configured. -/
def InitStep.onCs : InitStep → Bool
  | .csMode | .csHigh => true
  | .rstMode | .rstRead | .rstOut | .rstHigh | .settle => false

/-- INIT's place in its pin sequence (R22, R150): only in IDLE, with INIT in OPR, and in the reset branch only where a
reset pin is configured (42_init_sequencer.md R152). -/
def Framer.initOk (f : Framer) : Bool :=
  match f.initAt with
  | none => true
  | some st => f.phase == .idle && f.dp.opr == .init && (st.onCs || f.cfg.rstPin.isSome)

/-- Instance k is coherent with the bus register: it owns the bus exactly in the phases between Begin and End, its
chip-select, step counter and place in INIT are as its phase says, and it is in FAULTED exactly when FAULT is set (R26). -/
def Framer.ok (countMax : Nat) (owner : Option Agent) (k : Nat) (f : Framer) : Bool :=
  (decide (owner = some (.framer k)) == f.phase.onBus) && f.csOk && f.countOk countMax && f.initOk &&
    (f.fault.isSome == (f.phase == .faulted))

/-- The invariant: every instance is coherent, an owner that is an instance exists, every buffer is in canonical form,
and `COUNT_MAX` is at least 1 (00_scope.md R6). -/
def State.Inv (s : State) : Prop :=
  (∀ (k : Nat) (f : Framer), s.insts[k]? = some f → f.ok s.countMax s.busOwner k = true) ∧
  (∀ k, s.busOwner = some (.framer k) → k < s.insts.length) ∧
  bufsWf s.bufs = true ∧ 1 ≤ s.countMax

/-- An instance whose chip-select is what INIT leaves it in, but for the transaction it may be in (R24). -/
def Framer.initialised (f : Framer) : Bool :=
  match f.phase with
  | .xfer | .desel => f.cs == Pin.selected
  | _ => f.cs == Pin.deselected

/-! ### When a command runs, and what it leaves -/

/-- Instance `cur` is f, holds no fault and is in no operation. -/
def State.Free (s : State) (f : Framer) : Prop :=
  s.insts[s.cur]? = some f ∧ f.fault = none ∧ f.busy = false

/-- Instance `cur` is f and a transfer operation passes its chip-select check and gets the bus
(60_exceptions.md R174, 20_memory.md R58). -/
def State.Ready (s : State) (f : Framer) : Prop :=
  s.Free f ∧ f.cs = Pin.deselected ∧ s.busOwner = none

/-- No other instance holds the buffer b for a call (20_memory.md R64). -/
def State.notLent (s : State) (b : Nat) : Prop :=
  ∀ (k : Nat) (f : Framer), s.insts[k]? = some f → k ≠ s.cur → f.holds b = false

/-- t is s after instance `cur` became f': every other instance, the parameter, the turns are as before. -/
def State.Became (s : State) (f' : Framer) (t : State) : Prop :=
  t.insts = s.insts.set s.cur f' ∧ t.countMax = s.countMax ∧ t.cur = s.cur ∧ t.turns = s.turns

/-- f' is f after an operation that returned: its events, its result and nrx answers of the BUS; the step counter
is `(IDLE, 0)` with no INIT in progress (`initAt`, log 22); configuration, fault and queue are as before. The pins are said apart. -/
def Framer.Returned (f : Framer) (evs : List Event) (res : Result) (nrx : Nat) (f' : Framer) : Prop :=
  f'.trace = f.trace ++ evs ∧ f'.results = f.results ++ [res] ∧ f'.rxIn = f.rxIn.drop nrx ∧
  f'.phase = .idle ∧ f'.k = 0 ∧ f'.initAt = none ∧ f'.cfg = f.cfg ∧ f'.fault = none ∧ f'.inbox = f.inbox

/-- The pins and the level inputs of f' are those of f. -/
def Framer.SamePins (f f' : Framer) : Prop := f'.cs = f.cs ∧ f'.rst = f.rst ∧ f'.lvlIn = f.lvlIn

/-- The entry conditions of a transfer operation on instance f (60_exceptions.md R172-R174, 20_memory.md R64); no other
instruction has any to pass. -/
def State.Passes (s : State) (f : Framer) : Instr → Prop
  | .write1 _ _ => f.cs = Pin.deselected
  | .read1 _ => f.cs = Pin.deselected
  | .writen _ n b => f.cs = Pin.deselected ∧ n ≤ s.countMax ∧ n ≤ (bufAt s.bufs b).len ∧
      (∀ i < n, (bufAt s.bufs b).read i ≠ none) ∧ (n = 0 ∨ s.notLent b)
  | .readn _ n b ra => f.cs = Pin.deselected ∧ 1 ≤ n ∧ n ≤ s.countMax ∧ n ≤ (bufAt s.bufs b).len ∧
      (ra = 0 ∨ (bufAt s.bufs b).read 0 ≠ none) ∧ s.notLent b
  | .init | .reserved5 | .reserved6 | .reserved7 | .addrW _ | .addrR _ | .dummy => False

/-- f' is f but for the pin p, which has become what g makes of it (10_state.md R23). -/
def Framer.SetsPin (f f' : Framer) (p : PinId) (g : Pin → Pin) : Prop :=
  f'.pin p = (f.pin p).map g ∧ ∀ q, q ≠ p → f'.pin q = f.pin q

/-- f' is f after the event e of INIT, with the event st to come (42_init_sequencer.md R150). -/
def Framer.InitGoes (f f' : Framer) (e : Event) (st : InitStep) : Prop :=
  f'.trace = f.trace ++ [e] ∧ f'.phase = .idle ∧ f'.initAt = some st

/-- f' is f after the last event e of INIT, with the result b to be returned (R153). -/
def Framer.InitEnds (f f' : Framer) (e : Event) (b : Bool) : Prop :=
  f'.trace = f.trace ++ [e] ∧ f'.phase = .done ∧ f'.initAt = none ∧ f'.dp.res = .bool b

/-! ### The events of the operations, as their rules write them -/

/-- The bracket of 40_register_write.md R101 around the events of a frame. -/
def bracket (s : BusSettings) (evs : List Event) : List Event :=
  [.busBegin s, .cs .low] ++ evs ++ [.cs .high, .busEnd]

/-- WRITEN's loop (R103): slot i is read, then sent; rx j is the byte received at transfer j. -/
def writeLoop (rx : Nat → Byte) (i : Nat) : List Byte → List Event
  | [] => []
  | d :: ds => .bufRd i d :: .xfer d (rx (i + 1)) :: writeLoop rx (i + 1) ds

/-- What READN puts into slot i (41_register_read.md R123, R125): the byte of transfer i + 1, merged into slot 0's value
at entry when rxAlign is not 0. -/
def readValue (ra : Align) (old : Byte) (rx : Nat → Byte) (i : Nat) : Byte :=
  if i = 0 ∧ ra ≠ 0 then (old &&& ~~~rxMask ra) ||| (rx 1 &&& rxMask ra) else rx (i + 1)

/-- READN's iteration i of n (R123): the transfer, then the store, with slot 0 read first when it is merged. -/
def readIteration (r : RegAddr) (n : Nat) (ra : Align) (old : Byte) (rx : Nat → Byte) (i : Nat) : List Event :=
  [.xfer (if i < n - 1 then addrRead r else 0x00#8) (rx (i + 1))] ++
    (if i = 0 ∧ ra ≠ 0 then [.bufRd 0 old] else []) ++ [.bufWr i (readValue ra old rx i)]

/-- Whether the next transfer of f is followed by a store: a READN past its priming transfer (R124). -/
def Framer.stores (f : Framer) : Bool := f.dp.opr == .readn && f.k != 0

/-- The byte that store puts into slot IDX, for the received byte rx (R123, R125). -/
def Framer.storeByte (f : Framer) (rx : Byte) : Byte :=
  if f.dp.idx = 0 ∧ f.dp.ra ≠ 0 then (f.dp.old &&& ~~~f.dp.mask) ||| (rx &&& f.dp.mask) else rx

/-- The buffer events of that store. -/
def Framer.storeEvents (f : Framer) (rx : Byte) : List Event :=
  if f.stores then
    (if f.dp.idx = 0 ∧ f.dp.ra ≠ 0 then [.bufRd 0 f.dp.old] else []) ++ [.bufWr f.dp.idx (f.storeByte rx)]
  else []

/-- An event another bus user can see: everything but the buffer, pin and delay events. -/
def Event.onBus : Event → Bool
  | .busBegin _ | .busEnd | .cs _ | .xfer _ _ => true
  | .pinMode _ _ | .pinWrite _ _ | .pinRead _ _ | .delay _ | .bufRd _ _ | .bufWr _ _ => false

/-- The answers of the BUS to instance f: the j-th byte received from state s on (10_state.md R33). -/
def State.rx (s : State) (f : Framer) (j : Nat) : Byte := rxNth f.rxIn s.free j

end Sys2Proof.Machine
end

