-- ==== Sys2Proof/Certificates/Slice0/Obligations.lean ====
section
/-! DEFINITION. The statements for the provers, one def each, in the order of OBLIGATIONS.json. -/

open Sys2Proof Sys2Proof.Machine

/-! ### Encoding -/

/-- 30_encoding.md R72, R73: the address byte by its formula, and bit for bit: the direction, the register, and 0. -/
def Obligations.AddressBytesLaidOut : Prop :=
  ∀ r : RegAddr,
    addrWrite r = r.setWidth 8 <<< 1 ∧ addrWrite r = 0#1 ++ r ++ 0#1 ∧ addrWrite r = (r.setWidth 8 <<< 1) &&& 0xFE#8 ∧
    addrRead r = 0x80#8 ||| (r.setWidth 8 <<< 1) ∧ addrRead r = 1#1 ++ r ++ 0#1

/-- R75: MASK(ra) has bits ra..7 set and bits 0..ra-1 clear; with ra = 0 the merge is a plain store. -/
def Obligations.RxMaskSetsHighBits : Prop :=
  (∀ ra : Align, rxMask ra = 0xFF#8 <<< ra.toNat) ∧
  (∀ (ra : Align) (i : Nat), i < 8 → ((rxMask ra).getLsbD i = true ↔ ra.toNat ≤ i)) ∧
  ∀ old rx : Byte, rxMerge (rxMask 0) old rx = rx

/-- R76, R72-R74: decoding what the encoder writes gives the instruction back. The form of the command record (log 13),
and that selectors 5, 6 and 7 decode, to be refused `R_BAD_OP` by exec and not by the decoder as R80 has it (log 14),
are the model's choices. -/
def Obligations.DecodeOfEncode : Prop :=
  ∀ (countMax : Nat) (i : Instr), i.wf countMax = true → decode countMax (encode i) = .ok i

/-- What the decoder accepts is well formed, a wire byte is the encoding of what it decodes to, and a record's operands
are the ones decoded. The form of the record (log 13), and that selectors 5, 6 and 7 decode (log 14), are the model's
choices. -/
def Obligations.DecodedIsWhatWasWritten : Prop :=
  ∀ (countMax : Nat) (c : Code) (i : Instr), decode countMax c = .ok i →
    i.wf countMax = true ∧
    match c with
    | .wire p b => encode i = .wire p b
    | .command r => (encodeRecord i).op = r.op ∧
        match i with
        | .write1 a x => a.toNat = r.reg ∧ x = r.value
        | .writen a n b => a.toNat = r.reg ∧ (n : Int) = r.count ∧ b = r.buf
        | .read1 a => a.toNat = r.reg
        | .readn a n b ra => a.toNat = r.reg ∧ (n : Int) = r.count ∧ b = r.buf ∧ ra.toNat = r.rxAlign
        | .init | .reserved5 | .reserved6 | .reserved7 => True
        | .addrW _ | .addrR _ | .dummy => False

/-- R80, and the order of R176 step 1: which refusal a command record gets; the selectors 5, 6 and
7 are refused by exec (log 14). -/
def Obligations.BoundaryRefusals : Prop :=
  ∀ (countMax : Nat) (r : Record),
    (8 ≤ r.op → decodeRecord countMax r = .error .badOp) ∧
    (r.op < 4 → 64 ≤ r.reg → decodeRecord countMax r = .error .regRange) ∧
    ((r.op = 1 ∨ r.op = 3) → r.reg < 64 → (r.count < 0 ∨ (countMax : Int) < r.count) →
      decodeRecord countMax r = .error .countRange) ∧
    (r.op = 3 → r.reg < 64 → 0 ≤ r.count → r.count ≤ (countMax : Int) → 8 ≤ r.rxAlign →
      decodeRecord countMax r = .error .alignRange)

/-- R77: the number of transfers of each planned frame. -/
def Obligations.FramePlanLengths : Prop :=
  ∀ (vals : List Byte) (i : Instr) (plan : List Byte), planTx vals i = some plan →
    match i with
    | .write1 _ _ | .read1 _ => plan.length = 2
    | .writen _ _ _ => plan.length = vals.length + 1
    | .readn _ n _ _ => 1 ≤ n ∧ plan.length = n + 1
    | .init | .reserved5 | .reserved6 | .reserved7 | .addrW _ | .addrR _ | .dummy => False

/-- R78: the bus monitor reads from every planned frame its direction, register and data. -/
def Obligations.MonitorReadsEveryPlannedFrame : Prop :=
  ∀ (vals : List Byte) (i : Instr) (plan : List Byte), planTx vals i = some plan →
    match i with
    | .write1 r x => decodeFrame plan = .ok (.write r [x])
    | .writen r _ _ => decodeFrame plan = .ok (.write r vals)
    | .read1 r => decodeFrame plan = .ok (.read r 1)
    | .readn r n _ _ => decodeFrame plan = .ok (.read r n)
    | .init | .reserved5 | .reserved6 | .reserved7 | .addrW _ | .addrR _ | .dummy => False

/-- The reading of a few opcode-table words: that a word below 8 is a selector (log 11), and that the reserved selector
0x05 is read as an instruction, which exec and not the decoder refuses (log 14), are the model's choices. -/
def Obligations.TableWordsDecode : Prop :=
  decodeTableWord 8 0x00 = some (.write1 0 0) ∧ decodeTableWord 8 0x03 = some (.readn 0 0 0 0) ∧
  decodeTableWord 8 0x04 = some .init ∧ decodeTableWord 8 0x05 = some .reserved5 ∧
  decodeTableWord 8 0x12 = some (.addrW 0x09) ∧ decodeTableWord 8 0x92 = some (.addrR 0x09)

/-- 92_eei_decisions.md D10: the numeric sentinel means "not connected", any other number is the pin. That
the numbers are natural numbers is the model's choice (log 23). -/
def Obligations.SentinelMeansNotConnected : Prop :=
  ∀ (unused cs rst : Nat) (bus : BusSettings),
    (Config.ofNumbers unused cs unused bus).rstPin = none ∧
    (rst ≠ unused → (Config.ofNumbers unused cs rst bus).rstPin = some rst) ∧
    (Config.ofNumbers unused cs rst bus).csPin = cs ∧ (Config.ofNumbers unused cs rst bus).bus = bus

/-! ### The operations -/

/-- 40_register_write.md R100, R101: WRITE1 sends `[AW(r), x]` in one bracket and returns nothing. -/
def Obligations.Write1SendsAddressThenData : Prop :=
  ∀ (r : RegAddr) (x : Byte) (s : State) (f : Framer), s.Ready f →
    ∃ t f', exec (.write1 r x) s = .next t ∧ s.Became f' t ∧ f.SamePins f' ∧
      f.Returned (bracket f.cfg.bus [.xfer (addrWrite r) (s.rx f 0), .xfer x (s.rx f 1)]) .none 2 f' ∧
      t.busOwner = none ∧ t.bufs = s.bufs

/-- R103, R104: WRITEN sends the address byte once, then slots 0..n-1 in order; the buffers are as before. -/
def Obligations.WritenSendsAddressThenSlots : Prop :=
  ∀ (r : RegAddr) (n b : Nat) (vals : List Byte) (s : State) (f : Framer), s.Ready f →
    n ≤ s.countMax → n ≤ (bufAt s.bufs b).len → vals.length = n →
    (∀ i < n, (bufAt s.bufs b).read i = vals[i]?) → (n = 0 ∨ s.notLent b) →
    ∃ t f', exec (.writen r n b) s = .next t ∧ s.Became f' t ∧ f.SamePins f' ∧
      f.Returned (bracket f.cfg.bus (.xfer (addrWrite r) (s.rx f 0) :: writeLoop (s.rx f) 0 vals)) .none (n + 1) f' ∧
      t.busOwner = none ∧ t.bufs = s.bufs

/-- R104: WRITEN with count 0 is one bracketed transfer of the address byte, whatever the buffer. -/
def Obligations.WritenOfZeroSendsAddressOnly : Prop :=
  ∀ (r : RegAddr) (b : Nat) (s : State) (f : Framer), s.Ready f →
    ∃ t f', exec (.writen r 0 b) s = .next t ∧ s.Became f' t ∧ f.SamePins f' ∧
      f.Returned [.busBegin f.cfg.bus, .cs .low, .xfer (addrWrite r) (s.rx f 0), .cs .high, .busEnd] .none 1 f' ∧
      t.busOwner = none ∧ t.bufs = s.bufs

/-- 41_register_read.md R120, R121: READ1 sends `[AR(r), 0x00]` and returns the byte of the second transfer. -/
def Obligations.Read1ReturnsSecondByte : Prop :=
  ∀ (r : RegAddr) (s : State) (f : Framer), s.Ready f →
    ∃ t f', exec (.read1 r) s = .next t ∧ s.Became f' t ∧ f.SamePins f' ∧
      f.Returned (bracket f.cfg.bus [.xfer (addrRead r) (s.rx f 0), .xfer 0x00 (s.rx f 1)])
        (.byte (s.rx f 1)) 2 f' ∧
      t.busOwner = none ∧ t.bufs = s.bufs

/-- R123-R130: READN with n >= 1: its transfers and stores; slot i holds the byte of transfer i + 1, slot 0 merged under
the mask when rxAlign is not 0; every other slot of every buffer is as before. -/
def Obligations.ReadnStoresWithLag : Prop :=
  ∀ (r : RegAddr) (n b : Nat) (ra : Align) (old : Byte) (s : State) (f : Framer), s.Ready f →
    1 ≤ n → n ≤ s.countMax → n ≤ (bufAt s.bufs b).len → (ra = 0 ∨ (bufAt s.bufs b).read 0 = some old) → s.notLent b →
    ∃ t f', exec (.readn r n b ra) s = .next t ∧ s.Became f' t ∧ f.SamePins f' ∧
      f.Returned (bracket f.cfg.bus (.xfer (addrRead r) (s.rx f 0) ::
        (List.range n).flatMap (readIteration r n ra old (s.rx f)))) .none (n + 1) f' ∧
      t.busOwner = none ∧
      (∀ i < n, (bufAt t.bufs b).read i = some (readValue ra old (s.rx f) i)) ∧
      (∀ c i, (c ≠ b ∨ n ≤ i) → (bufAt t.bufs c).read i = (bufAt s.bufs c).read i) ∧
      (∀ c, (bufAt t.bufs c).len = (bufAt s.bufs c).len)

/-- R126: READN with count 0 does nothing and returns, even before INIT and with the bus owned. -/
def Obligations.ReadnOfZeroDoesNothing : Prop :=
  ∀ (r : RegAddr) (b : Nat) (ra : Align) (s : State) (f : Framer), s.Free f →
    ∃ t f', exec (.readn r 0 b ra) s = .next t ∧ s.Became f' t ∧ f.SamePins f' ∧ f.Returned [] .none 0 f' ∧
      t.busOwner = s.busOwner ∧ t.bufs = s.bufs

/-- R125: the receive aligner keeps the bits below rxAlign and takes the others from the received byte. -/
def Obligations.AlignerMergesBitwise : Prop :=
  ∀ (ra : Align) (old rx : Byte) (i : Nat), i < 8 →
    (rxMerge (rxMask ra) old rx).getLsbD i = if ra.toNat ≤ i then rx.getLsbD i else old.getLsbD i

/-- 42_init_sequencer.md R150-R153: INIT with no reset pin. -/
def Obligations.InitWithoutResetPin : Prop :=
  ∀ (s : State) (f : Framer), s.Free f → f.cfg.rstPin = none →
    ∃ t f', exec .init s = .next t ∧ s.Became f' t ∧
      f.Returned [.pinMode f.cfg.csPin .output, .pinWrite f.cfg.csPin .high] (.bool false) 0 f' ∧
      f'.cs = Pin.deselected ∧ f'.rst = f.rst ∧ f'.lvlIn = f.lvlIn ∧ t.busOwner = s.busOwner ∧ t.bufs = s.bufs

/-- R150-R153: INIT when the reset pin is sampled HIGH: it is left an input, and the result is false. Where both
configuration fields name one pin, that pin is left an input (log 12). -/
def Obligations.InitResetPinHigh : Prop :=
  ∀ (p : PinId) (s : State) (f : Framer), s.Free f → f.cfg.rstPin = some p → nextLevel f.lvlIn s.free = .high →
    ∃ t f', exec .init s = .next t ∧ s.Became f' t ∧
      f.Returned [.pinMode f.cfg.csPin .output, .pinWrite f.cfg.csPin .high, .pinMode p .input, .pinRead p .high]
        (.bool false) 0 f' ∧
      (p ≠ f.cfg.csPin → f'.cs = Pin.deselected ∧ f'.rst = ⟨.input, f.rst.lvl⟩) ∧
      (p = f.cfg.csPin → f'.cs = ⟨.input, .high⟩ ∧ f'.rst = f.rst) ∧
      f'.lvlIn = f.lvlIn.tail ∧ t.busOwner = s.busOwner ∧ t.bufs = s.bufs

/-- R150-R153, R158: INIT when the reset pin is sampled LOW: it is driven HIGH, 50 ms are asked for, the result is
true. -/
def Obligations.InitResetPinLow : Prop :=
  ∀ (p : PinId) (s : State) (f : Framer), s.Free f → f.cfg.rstPin = some p → nextLevel f.lvlIn s.free = .low →
    ∃ t f', exec .init s = .next t ∧ s.Became f' t ∧
      f.Returned [.pinMode f.cfg.csPin .output, .pinWrite f.cfg.csPin .high, .pinMode p .input, .pinRead p .low,
        .pinMode p .output, .pinWrite p .high, .delay 50] (.bool true) 0 f' ∧
      f'.cs = Pin.deselected ∧ (p ≠ f.cfg.csPin → f'.rst = ⟨.output, .high⟩) ∧ (p = f.cfg.csPin → f'.rst = f.rst) ∧
      f'.lvlIn = f.lvlIn.tail ∧ t.busOwner = s.busOwner ∧ t.bufs = s.bufs

/-- R153: INIT returns true if and only if it drove the reset pin HIGH in this call, exactly when one is configured and
was sampled LOW; its last event is then the settle delay. -/
def Obligations.InitTrueIffDroveResetHigh : Prop :=
  ∀ (s : State) (f : Framer), s.Free f →
    ∃ t f' evs b, exec .init s = .next t ∧ s.Became f' t ∧ f'.trace = f.trace ++ evs ∧
      f'.results = f.results ++ [.bool b] ∧
      (b = true ↔ ∃ p, f.cfg.rstPin = some p ∧ [.pinMode p .output, .pinWrite p .high, .delay 50] <:+ evs) ∧
      (b = true ↔ ∃ p, f.cfg.rstPin = some p ∧ nextLevel f.lvlIn s.free = .low)

/-- R154, R155: INIT makes no event on the bus and drives no pin LOW, whatever the state. -/
def Obligations.InitNeverDrivesLow : Prop :=
  ∀ (s t : State) (f : Framer), s.insts[s.cur]? = some f → exec .init s = .next t →
    ∃ f' evs, s.Became f' t ∧ f'.trace = f.trace ++ evs ∧ ∀ e ∈ evs, e.onBus = false ∧ ∀ p, e ≠ .pinWrite p .low

/-- R150, R152, R154, 10_state.md R23: a turn of one event of an instance inside INIT performs exactly the event that comes
next, whoever owns the bus, and changes the pin it names; the reset branch depends on the sampled level alone, and the
result waits for DONE. -/
def Obligations.InitGoesEventByEvent : Prop :=
  ∀ (s : State) (f : Framer) (k : Nat) (ts : List Turn) (st : InitStep), s.turns = .framer k .event :: ts →
    s.insts[k]? = some f → f.fault = none → f.phase = .idle → f.initAt = some st →
    (st.onCs = true ∨ f.cfg.rstPin ≠ none) →
    ∃ t f', step s = .next t ∧ t.insts = s.insts.set k f' ∧ t.busOwner = s.busOwner ∧ t.bufs = s.bufs ∧ t.turns = ts ∧
      f'.results = f.results ∧ f'.cfg = f.cfg ∧ f'.fault = none ∧ f'.inbox = f.inbox ∧ f'.rxIn = f.rxIn ∧
      match st with
      | .csMode => f.InitGoes f' (.pinMode f.cfg.csPin .output) .csHigh ∧
          f.SetsPin f' f.cfg.csPin (fun x => { x with dir := .output }) ∧ f'.lvlIn = f.lvlIn
      | .csHigh => f.SetsPin f' f.cfg.csPin (fun x => { x with lvl := .high }) ∧ f'.lvlIn = f.lvlIn ∧
          (f.cfg.rstPin = none → f.InitEnds f' (.pinWrite f.cfg.csPin .high) false) ∧
          (f.cfg.rstPin ≠ none → f.InitGoes f' (.pinWrite f.cfg.csPin .high) .rstMode)
      | .rstMode => ∃ p, f.cfg.rstPin = some p ∧ f.InitGoes f' (.pinMode p .input) .rstRead ∧
          f.SetsPin f' p (fun x => { x with dir := .input }) ∧ f'.lvlIn = f.lvlIn
      | .rstRead => ∃ p, f.cfg.rstPin = some p ∧ f.SetsPin f' p id ∧ f'.lvlIn = f.lvlIn.tail ∧
          (nextLevel f.lvlIn s.free = .low → f.InitGoes f' (.pinRead p .low) .rstOut) ∧
          (nextLevel f.lvlIn s.free = .high → f.InitEnds f' (.pinRead p .high) false)
      | .rstOut => ∃ p, f.cfg.rstPin = some p ∧ f.InitGoes f' (.pinMode p .output) .rstHigh ∧
          f.SetsPin f' p (fun x => { x with dir := .output }) ∧ f'.lvlIn = f.lvlIn
      | .rstHigh => ∃ p, f.cfg.rstPin = some p ∧ f.InitGoes f' (.pinWrite p .high) .settle ∧
          f.SetsPin f' p (fun x => { x with lvl := .high }) ∧ f'.lvlIn = f.lvlIn
      | .settle => f.InitEnds f' (.delay 50) true ∧ f.SamePins f'

/-- 30_encoding.md R80: the reserved selectors are refused in every state. -/
def Obligations.ReservedSelectorsRefused : Prop :=
  ∀ s : State, exec .reserved5 s = .refused (.rejected .badOp) ∧ exec .reserved6 s = .refused (.rejected .badOp) ∧
    exec .reserved7 s = .refused (.rejected .badOp)

/-- R80: a count above COUNT_MAX is refused in every state. -/
def Obligations.CountAboveMaximumRefused : Prop :=
  ∀ (r : RegAddr) (n b : Nat) (ra : Align) (s : State), s.countMax < n →
    exec (.writen r n b) s = .refused (.rejected .countRange) ∧
    exec (.readn r n b ra) s = .refused (.rejected .countRange)

/-! ### The wire byte forms -/

/-- R72, R78: where a write frame is about to send its address byte, ADDR_W is that transfer. -/
def Obligations.AddrWIsFirstTransferOfWrite : Prop :=
  ∀ (r : RegAddr) (s : State) (f : Framer), s.insts[s.cur]? = some f → f.fault = none → f.phase = .xfer → f.k = 0 →
    (f.dp.opr = .write1 ∨ f.dp.opr = .writen) → f.dp.plan[0]? = some (addrWrite r) →
    ∃ t f', exec (.addrW r) s = .next t ∧ s.Became f' t ∧ f.SamePins f' ∧
      f'.trace = f.trace ++ [.xfer (addrWrite r) (s.rx f 0)] ∧ f'.rxIn = f.rxIn.drop 1 ∧ f'.k = 1 ∧
      f'.phase = (if 1 < f.dp.plan.length then .xfer else .desel) ∧ f'.dp = { f.dp with rxl := s.rx f 0 } ∧
      f'.cfg = f.cfg ∧ f'.fault = none ∧ f'.results = f.results ∧ f'.inbox = f.inbox ∧
      t.busOwner = s.busOwner ∧ t.bufs = s.bufs

/-- R73, R78: where a read frame is about to send its address byte, ADDR_R is that transfer, with a READN's store. -/
def Obligations.AddrRIsTransferOfRead : Prop :=
  ∀ (r : RegAddr) (s : State) (f : Framer), s.insts[s.cur]? = some f → f.fault = none → f.phase = .xfer →
    (f.dp.opr = .read1 ∨ f.dp.opr = .readn) → f.dp.plan[f.k]? = some (addrRead r) → f.k + 1 < f.dp.plan.length →
    ∃ t f', exec (.addrR r) s = .next t ∧ s.Became f' t ∧ f.SamePins f' ∧
      f'.trace = f.trace ++ .xfer (addrRead r) (s.rx f 0) :: f.storeEvents (s.rx f 0) ∧ f'.rxIn = f.rxIn.drop 1 ∧
      f'.k = f.k + 1 ∧ f'.phase = .xfer ∧ f'.dp.rxl = s.rx f 0 ∧
      f'.dp.idx = (if f.stores then f.dp.idx + 1 else f.dp.idx) ∧
      f'.cfg = f.cfg ∧ f'.fault = none ∧ f'.results = f.results ∧ f'.inbox = f.inbox ∧ t.busOwner = s.busOwner ∧
      (f.stores = true → f.dp.idx < (bufAt s.bufs f.dp.buf).len →
        (bufAt t.bufs f.dp.buf).read f.dp.idx = some (f.storeByte (s.rx f 0))) ∧
      (∀ c i, ¬(f.stores = true ∧ c = f.dp.buf ∧ i = f.dp.idx) → (bufAt t.bufs c).read i = (bufAt s.bufs c).read i)

/-- R74, 41_register_read.md R128: where a read frame is about to send its last byte, DUMMY is that transfer: a READN
stores its last byte, a READ1 takes its result from it, and the frame is over. -/
def Obligations.DummyIsLastTransferOfRead : Prop :=
  ∀ (s : State) (f : Framer), s.insts[s.cur]? = some f → f.fault = none → f.phase = .xfer →
    (f.dp.opr = .read1 ∨ f.dp.opr = .readn) → f.dp.plan[f.k]? = some 0x00#8 → f.k + 1 = f.dp.plan.length →
    ∃ t f', exec .dummy s = .next t ∧ s.Became f' t ∧ f.SamePins f' ∧
      f'.trace = f.trace ++ .xfer 0x00 (s.rx f 0) :: f.storeEvents (s.rx f 0) ∧ f'.rxIn = f.rxIn.drop 1 ∧
      f'.k = f.k + 1 ∧ f'.phase = .desel ∧ f'.dp.rxl = s.rx f 0 ∧
      (f.dp.opr = .read1 → f.k = 1 → f'.dp.res = .byte (s.rx f 0)) ∧
      (f.dp.opr = .readn → f'.dp.res = f.dp.res) ∧
      f'.cfg = f.cfg ∧ f'.fault = none ∧ f'.results = f.results ∧ f'.inbox = f.inbox ∧ t.busOwner = s.busOwner ∧
      (f.stores = true → f.dp.idx < (bufAt s.bufs f.dp.buf).len →
        (bufAt t.bufs f.dp.buf).read f.dp.idx = some (f.storeByte (s.rx f 0))) ∧
      (∀ c i, ¬(f.stores = true ∧ c = f.dp.buf ∧ i = f.dp.idx) → (bufAt t.bufs c).read i = (bufAt s.bufs c).read i)

/-- A wire form that is not the next byte of an open frame, whose bytes are those R77 plans and R78 reads, is refused:
the model's choice (log 15). -/
def Obligations.WireByteOutOfPlaceRefused : Prop :=
  ∀ (i : Instr) (s : State) (f : Framer), s.insts[s.cur]? = some f → f.fault = none →
    (i = .dummy ∨ ∃ r, i = .addrW r ∨ i = .addrR r) → (f.phase ≠ .xfer ∨ f.nextWire ≠ some (encode i)) →
    exec i s = .refused .notNextInFrame

/-! ### Faults -/

/-- 60_exceptions.md R174: a transfer on a chip-select that is not an output driven HIGH sets `F_NOT_INIT`, and nothing
else changes but the phase. -/
def Obligations.TransferBeforeInitFaults : Prop :=
  ∀ (i : Instr) (s : State) (f : Framer), s.Free f → i.opensTransaction = true → i.wf s.countMax = true →
    f.cs ≠ Pin.deselected →
    exec i s = .next { s with insts := s.insts.set s.cur { f with fault := some (.notInit i), phase := .faulted } }

/-- R172: a count above the buffer's length sets `F_BUF_BOUNDS`, with the count and the length recorded. -/
def Obligations.CountAboveBufferFaults : Prop :=
  ∀ (i : Instr) (n b : Nat) (s : State) (f : Framer), s.Free f → f.cs = Pin.deselected → i.wf s.countMax = true →
    (∃ r, i = .writen r n b ∨ ∃ ra, i = .readn r n b ra) → (bufAt s.bufs b).len < n →
    exec i s = .next { s with insts := s.insts.set s.cur { f with
      fault := some (.bufBounds i n (bufAt s.bufs b).len), phase := .faulted } }

/-- R173: a WRITEN with an undefined slot below n, and an aligned READN with slot 0 undefined, set `F_UNDEF_READ` with
the lowest such slot recorded. -/
def Obligations.UndefinedSlotFaults : Prop :=
  ∀ (r : RegAddr) (n b : Nat) (s : State) (f : Framer), s.Free f → f.cs = Pin.deselected → n ≤ s.countMax →
    n ≤ (bufAt s.bufs b).len →
    (∀ i < n, (bufAt s.bufs b).read i = none → (∀ j < i, (bufAt s.bufs b).read j ≠ none) →
      exec (.writen r n b) s = .next { s with insts := s.insts.set s.cur { f with
        fault := some (.undefRead (.writen r n b) i), phase := .faulted } }) ∧
    (∀ ra : Align, ra ≠ 0 → 1 ≤ n → (bufAt s.bufs b).read 0 = none →
      exec (.readn r n b ra) s = .next { s with insts := s.insts.set s.cur { f with
        fault := some (.undefRead (.readn r n b ra) 0), phase := .faulted } })

/-- R175: every fault an instruction sets is one of three, with its number, the command recorded, and its cause and recorded
values as the table gives them. -/
def Obligations.FaultCodeSaysCause : Prop :=
  ∀ (i : Instr) (s t : State) (f f' : Framer) (c : FaultCode), s.Free f → exec i s = .next t →
    t.insts[s.cur]? = some f' → f'.fault = some c →
    i.opensTransaction = true ∧
    match c with
    | .notInit cmd => c.number = 1 ∧ cmd = i ∧ f.cs ≠ ⟨.output, .high⟩
    | .bufBounds cmd n len => c.number = 2 ∧ cmd = i ∧
        ∃ r b, (i = .writen r n b ∨ ∃ ra, i = .readn r n b ra) ∧ len = (bufAt s.bufs b).len ∧ len < n
    | .undefRead cmd slot => c.number = 3 ∧ cmd = i ∧
        ∃ r n b, (i = .writen r n b ∨ ∃ ra, i = .readn r n b ra ∧ ra ≠ 0 ∧ slot = 0) ∧ slot < n ∧
          (bufAt s.bufs b).read slot = none ∧ ∀ j < slot, (bufAt s.bufs b).read j ≠ none

/-- 10_state.md R26: no instruction with a meaning takes a step on a faulted instance. -/
def Obligations.FaultedFramerTakesNoStep : Prop :=
  ∀ (i : Instr) (s : State) (f : Framer), s.insts[s.cur]? = some f → f.fault ≠ none → i.wf s.countMax = true →
    (i ≠ .reserved5 ∧ i ≠ .reserved6 ∧ i ≠ .reserved7) → exec i s = .fault .framerFaulted

/-- R26: no step clears a fault, and none changes the pins, the history or the results of a faulted instance. -/
def Obligations.FaultIsSticky : Prop :=
  ∀ (s t : State) (k : Nat) (f : Framer), step s = .next t → s.insts[k]? = some f → f.fault ≠ none →
    ∃ f', t.insts[k]? = some f' ∧ f'.fault = f.fault ∧ f'.trace = f.trace ∧ f'.results = f.results ∧
      f'.cs = f.cs ∧ f'.rst = f.rst ∧ f'.phase = f.phase

/-- R171: an instruction that sets a fault records no event, touches no buffer and leaves the rest of the state. -/
def Obligations.FaultIsPrecise : Prop :=
  ∀ (i : Instr) (s t : State) (f f' : Framer), s.insts[s.cur]? = some f → exec i s = .next t →
    t.insts[s.cur]? = some f' → f'.fault ≠ none →
    ∃ c, t = { s with insts := s.insts.set s.cur { f with fault := some c, phase := .faulted } }

/-! ### The bus, holding, and other agents -/

/-- 20_memory.md R58: a transfer that passes its checks while the bus is owned is held at its Begin: no event, the
command's registers loaded, the frame planned. -/
def Obligations.TransferHeldWhileBusOwned : Prop :=
  ∀ (i : Instr) (s : State) (f : Framer), s.Free f → s.Passes f i → s.busOwner ≠ none →
    ∃ t f', exec i s = .next t ∧ s.Became f' t ∧ f.SamePins f' ∧ f'.phase = .acq ∧ f'.k = 0 ∧ f'.trace = f.trace ∧
      f'.results = f.results ∧ f'.cfg = f.cfg ∧ f'.fault = none ∧ f'.rxIn = f.rxIn ∧
      t.busOwner = s.busOwner ∧ t.bufs = s.bufs ∧
      match i with
      | .write1 r x => f'.dp.opr = .write1 ∧ f'.dp.reg = r ∧ f'.dp.addr = addrWrite r ∧ f'.dp.plan = [addrWrite r, x]
      | .writen r n b => f'.dp.opr = .writen ∧ f'.dp.reg = r ∧ f'.dp.addr = addrWrite r ∧ f'.dp.cnt = n ∧
          f'.dp.buf = b ∧ f'.dp.plan.length = n + 1
      | .read1 r => f'.dp.opr = .read1 ∧ f'.dp.reg = r ∧ f'.dp.addr = addrRead r ∧ f'.dp.plan = [addrRead r, 0x00]
      | .readn r n b ra => f'.dp.opr = .readn ∧ f'.dp.reg = r ∧ f'.dp.addr = addrRead r ∧ f'.dp.cnt = n ∧
          f'.dp.buf = b ∧ f'.dp.ra = ra ∧ f'.dp.mask = rxMask ra ∧
          f'.dp.plan = List.replicate n (addrRead r) ++ [0x00]
      | .init | .reserved5 | .reserved6 | .reserved7 | .addrW _ | .addrR _ | .dummy => False

/-- R58: once the owner has released the bus, the held operation goes on exactly as the command would have run had
the bus been free. -/
def Obligations.HeldTransferGoesOnUnchanged : Prop :=
  ∀ (i : Instr) (s t : State) (f : Framer), s.Free f → s.Passes f i → s.busOwner ≠ none → s.turns = [] →
    exec i s = .next t → step { t with busOwner := none } = exec i { s with busOwner := none }

/-- 60_exceptions.md R178: a command to a busy instance is held with the HOST, and nothing else happens. -/
def Obligations.BusyFramerHoldsCommand : Prop :=
  ∀ (i : Instr) (s : State) (f : Framer), s.insts[s.cur]? = some f → f.fault = none → f.busy = true →
    i.isOperation = true → i.wf s.countMax = true →
    exec i s = .next { s with insts := s.insts.set s.cur { f with inbox := encodeRecord i :: f.inbox } }

/-- 10_state.md R25: another bus user acquires the bus only when it is free, and its release frees it. -/
def Obligations.PlatformAcquiresAndReleases : Prop :=
  ∀ (s : State) (ts : List Turn),
    (s.turns = .platformBegin :: ts → s.busOwner = none →
      step s = .next { s with turns := ts, busOwner := some .platform }) ∧
    (s.turns = .platformBegin :: ts → s.busOwner ≠ none → step s = .next { s with turns := ts }) ∧
    (s.turns = .platformEnd :: ts → s.busOwner = some .platform →
      step s = .next { s with turns := ts, busOwner := none })

/-- 60_exceptions.md R188, 20_memory.md R64: the HOST defines a buffer slot by slot and leaves the others alone, also while
slots of it are lent to calls, as long as it leaves those slots as they are; a definition that does not is stopped. -/
def Obligations.HostDefinesBuffer : Prop :=
  ∀ (s : State) (ts : List Turn) (b : Nat) (slots : List (Option Byte)), s.turns = .hostBuffer b slots :: ts →
    ((∀ f ∈ s.insts, f.holds b = true → ∀ i < f.dp.cnt, slots[i]? = some ((bufAt s.bufs b).read i)) →
      ∃ bufs, step s = .next { s with turns := ts, bufs := bufs } ∧ (bufAt bufs b).len = slots.length ∧
        (∀ i < slots.length, slots[i]? = some ((bufAt bufs b).read i)) ∧
        ∀ c, c ≠ b → bufAt bufs c = bufAt s.bufs c) ∧
    ((∃ f ∈ s.insts, f.holds b = true ∧ ∃ i < f.dp.cnt, slots[i]? ≠ some ((bufAt s.bufs b).read i)) →
      step s = .fault .bufferLent)

/-- R188: a command the HOST issues goes to the end of that instance's queue, and nothing else changes. -/
def Obligations.HostIssuesCommand : Prop :=
  ∀ (s : State) (ts : List Turn) (k : Nat) (r : Record) (f : Framer), s.turns = .hostIssue k r :: ts →
    s.insts[k]? = some f →
    step s = .next { s with turns := ts, insts := s.insts.set k { f with inbox := f.inbox ++ [r] } }

/-! ### The step -/

/-- A step runs the decoded command of the instance whose turn it is, on the state without it in the queue. -/
def Obligations.StepRunsDecodedCommand : Prop :=
  ∀ (s : State) (f : Framer) (r : Record) (rest : List Record) (i : Instr),
    f.busy = false → f.inbox = r :: rest → decode s.countMax (.command r) = .ok i →
    (s.turns = [] → s.insts[s.cur]? = some f → step s = exec i s.popInbox) ∧
    (∀ k ts, s.turns = .framer k .whole :: ts → s.insts[k]? = some f →
      step s = exec i { s with turns := ts, cur := k }.popInbox)

/-- A step of one event inside a frame runs the decoded wire byte. -/
def Obligations.StepRunsDecodedWireByte : Prop :=
  ∀ (s : State) (f : Framer) (c : Code) (i : Instr) (k : Nat) (ts : List Turn),
    s.turns = .framer k .event :: ts → s.insts[k]? = some f → f.phase = .xfer → f.nextWire = some c →
    decode s.countMax c = .ok i → step s = exec i { s with turns := ts, cur := k }

/-- 60_exceptions.md R176 step 1: a step refuses a command the decoder refuses, of the instance whose turn it is, however
long the turn, and even on a faulted instance. -/
def Obligations.StepRefusesBadCommand : Prop :=
  ∀ (s : State) (f : Framer) (r : Record) (rest : List Record) (e : Reject),
    f.busy = false → f.inbox = r :: rest → decode s.countMax (.command r) = .error e →
    (s.turns = [] → s.insts[s.cur]? = some f → step s = .refused (.rejected e)) ∧
    (∀ k g ts, s.turns = .framer k g :: ts → s.insts[k]? = some f → step s = .refused (.rejected e))

/-- A turn of one event takes the next command of an idle instance up to its first event: no event is recorded, and the
bus, the buffers and the pins are as before. -/
def Obligations.EventTurnTakesCommand : Prop :=
  ∀ (s : State) (f : Framer) (k : Nat) (ts : List Turn) (r : Record) (rest : List Record) (i : Instr),
    s.turns = .framer k .event :: ts → s.insts[k]? = some f → f.fault = none → f.busy = false → f.inbox = r :: rest →
    decode s.countMax (.command r) = .ok i → (i = .init ∨ { s with cur := k }.Passes f i) →
    ∃ t f', step s = .next t ∧ t.insts = s.insts.set k f' ∧ t.busOwner = s.busOwner ∧ t.bufs = s.bufs ∧ t.turns = ts ∧
      f.SamePins f' ∧ f'.trace = f.trace ∧ f'.results = f.results ∧ f'.inbox = rest ∧ f'.k = 0 ∧ f'.busy = true ∧
      (i = .init → f'.phase = .idle ∧ f'.initAt = some .csMode) ∧ (i ≠ .init → f'.phase = .acq)

/-- 00_scope.md R9, 10_state.md R22: carrying an operation one event first, and then to its return, is carrying it to
its return; the first event's turn may also be the one that takes the command. -/
def Obligations.EventByEventIsWhole : Prop :=
  ∀ (s t : State) (k : Nat) (g : Framer), step { s with turns := [.framer k .event] } = .next t →
    t.insts[k]? = some g → g.busy = true →
    step { t with turns := [.framer k .whole] } = step { s with turns := [.framer k .whole] }

/-! ### Frames and invariants -/

/-- Frame of the transfers, on every path that answers a next state: the other instances, the parameter and the turns;
this instance's configuration, pins and level inputs. -/
def Obligations.TransferFrame : Prop :=
  ∀ (i : Instr) (s t : State) (f : Framer), s.insts[s.cur]? = some f → exec i s = .next t →
    (∃ r x, i = .write1 r x) ∨ (∃ r n b, i = .writen r n b) ∨ (∃ r, i = .read1 r) ∨ (∃ r n b ra, i = .readn r n b ra) →
    ∃ f', s.Became f' t ∧ f'.cfg = f.cfg ∧ f.SamePins f'

/-- Frame of memory: WRITE1, WRITEN, READ1 and INIT store to no buffer; READN stores only to slots below its count in
its own buffer. -/
def Obligations.BufferFrame : Prop :=
  ∀ (i : Instr) (s t : State), exec i s = .next t →
    ((∃ r x, i = .write1 r x) ∨ (∃ r n b, i = .writen r n b) ∨ (∃ r, i = .read1 r) ∨ i = .init → t.bufs = s.bufs) ∧
    (∀ r n b ra, i = .readn r n b ra → ∀ c j, (c ≠ b ∨ n ≤ j) → (bufAt t.bufs c).read j = (bufAt s.bufs c).read j)

/-- Frame of INIT: the other instances, the bus register and the buffers; this instance's configuration, fault
register and byte inputs. -/
def Obligations.InitFrame : Prop :=
  ∀ (s t : State) (f : Framer), s.insts[s.cur]? = some f → exec .init s = .next t →
    ∃ f', s.Became f' t ∧ f'.cfg = f.cfg ∧ f'.fault = f.fault ∧ f'.rxIn = f.rxIn ∧
      t.busOwner = s.busOwner ∧ t.bufs = s.bufs

/-- 10_state.md R20, R31: no step writes a configuration or the parameter, makes or loses an instance, or takes an event
or a result back. -/
def Obligations.StepKeepsConfigurationAndHistory : Prop :=
  ∀ s t : State, step s = .next t → t.insts.length = s.insts.length ∧ t.countMax = s.countMax ∧
    ∀ (k : Nat) (f : Framer), s.insts[k]? = some f →
      ∃ f', t.insts[k]? = some f' ∧ f'.cfg = f.cfg ∧ f.trace <+: f'.trace ∧ f.results <+: f'.results

/-- R34, R190: the state right after construction, for every choice of the construction arguments. -/
def Obligations.ConstructionState : Prop :=
  ∀ (cfgs : List Cfg) (countMax : Nat) (k : Nat) (c : Cfg), cfgs[k]? = some c →
    (State.construct cfgs countMax).busOwner = none ∧
    (State.construct cfgs countMax).insts.length = cfgs.length ∧
    ∃ f, (State.construct cfgs countMax).insts[k]? = some f ∧ f.cfg = c ∧ f.cs = ⟨.unk, .unk⟩ ∧ f.rst = ⟨.unk, .unk⟩ ∧
      f.fault = none ∧ f.trace = [] ∧ f.phase = .idle ∧ f.k = 0

/-- The invariant holds at reset, and after construction with any configurations and any COUNT_MAX of at least 1. -/
def Obligations.ConstructionMeetsInvariant : Prop :=
  State.reset.Inv ∧ ∀ (cfgs : List Cfg) (countMax : Nat), 1 ≤ countMax → (State.construct cfgs countMax).Inv

/-- R22, R24, R25, R26, R52: every step keeps the invariant: bus ownership, chip-select, step counter and INIT's place as the
phase says, FAULTED exactly with FAULT, buffers in canonical form. -/
def Obligations.StepKeepsInvariant : Prop :=
  ∀ s t : State, s.Inv → step s = .next t → t.Inv

/-- 60_exceptions.md R185: at most one instance's chip-select is LOW at any time. -/
def Obligations.AtMostOneChipSelectLow : Prop :=
  ∀ (s : State) (j k : Nat) (f g : Framer), s.Inv → s.insts[j]? = some f → s.insts[k]? = some g →
    f.cs.lvl = .low → g.cs.lvl = .low → j = k

/-- 20_memory.md R58, 10_state.md R25: while an agent owns the bus, an instance or another bus user, a step adds no bus event
to the history of any other instance, and the bus changes hands only by the owner's End. -/
def Obligations.TransactionsDoNotInterleave : Prop :=
  ∀ (s t : State) (a : Agent), s.Inv → step s = .next t → s.busOwner = some a →
    (∀ (j : Nat) (f : Framer), a ≠ .framer j → s.insts[j]? = some f →
      ∃ f' evs, t.insts[j]? = some f' ∧ f'.trace = f.trace ++ evs ∧ ∀ e ∈ evs, e.onBus = false) ∧
    (t.busOwner = some a ∨
      (t.busOwner = none ∧
        ((a = .platform ∧ s.turns.head? = some .platformEnd) ∨
          ∃ k f', a = .framer k ∧ t.insts[k]? = some f' ∧ f'.trace.getLast? = some .busEnd)))

/-- 10_state.md R24, R34: once chip-select is as INIT leaves it, it stays so outside a transaction, for an instance whose
two pins differ. -/
def Obligations.InitialisedStaysInitialised : Prop :=
  ∀ (s t : State) (k : Nat) (f : Framer), step s = .next t → s.insts[k]? = some f →
    f.cfg.rstPin ≠ some f.cfg.csPin → f.initialised = true →
    ∃ f', t.insts[k]? = some f' ∧ f'.initialised = true

/-- 30_encoding.md R84: a single form and its block form of count 1 make the same bus events; the block forms record
their buffer access besides, and the byte READ1 returns is the one READN stores. -/
def Obligations.SingleFormsMatchBlockForms : Prop :=
  ∀ (r : RegAddr) (x : Byte) (b : Nat) (s : State) (f : Framer), s.Ready f → 1 ≤ s.countMax →
    1 ≤ (bufAt s.bufs b).len → s.notLent b →
    ((bufAt s.bufs b).read 0 = some x →
      ∃ t u f' g' es fs, exec (.write1 r x) s = .next t ∧ exec (.writen r 1 b) s = .next u ∧ s.Became f' t ∧
        s.Became g' u ∧ f'.trace = f.trace ++ es ∧ g'.trace = f.trace ++ fs ∧ es = fs.filter Event.onBus ∧
        fs.filter (fun e => !e.onBus) = [.bufRd 0 x]) ∧
    (∃ t u f' g' es fs y, exec (.read1 r) s = .next t ∧ exec (.readn r 1 b 0) s = .next u ∧ s.Became f' t ∧
      s.Became g' u ∧ f'.trace = f.trace ++ es ∧ g'.trace = f.trace ++ fs ∧ es = fs.filter Event.onBus ∧
      f'.results = f.results ++ [.byte y] ∧ (bufAt u.bufs b).read 0 = some y)
end

