-- ==== Sys2Proof/Laws/State.lean ====
section
/-! SUPPORT. One lemma per field per update of the state and of an instance's view, so that no proof unfolds a record update. -/

namespace Sys2Proof.Machine

variable (s : State) (v : View)

/-! ### An instance's view put back into the state -/

@[simp] theorem put_insts : (s.put v).insts = s.insts.set s.cur v.inst := rfl
@[simp] theorem put_busOwner : (s.put v).busOwner = v.owner := rfl
@[simp] theorem put_bufs : (s.put v).bufs = v.bufs := rfl
@[simp] theorem put_free : (s.put v).free = v.free := rfl
@[simp] theorem put_countMax : (s.put v).countMax = s.countMax := rfl
@[simp] theorem put_cur : (s.put v).cur = s.cur := rfl
@[simp] theorem put_turns : (s.put v).turns = s.turns := rfl
@[simp] theorem view_me (f : Framer) : (s.view f).me = s.cur := rfl
@[simp] theorem view_inst (f : Framer) : (s.view f).inst = f := rfl
@[simp] theorem view_owner (f : Framer) : (s.view f).owner = s.busOwner := rfl
@[simp] theorem view_bufs (f : Framer) : (s.view f).bufs = s.bufs := rfl
@[simp] theorem view_countMax (f : Framer) : (s.view f).countMax = s.countMax := rfl
@[simp] theorem view_free (f : Framer) : (s.view f).free = s.free := rfl
@[simp] theorem view_lent (f : Framer) : (s.view f).lent = lentExcept s.cur 0 s.insts := rfl
@[simp] theorem popInbox_busOwner : s.popInbox.busOwner = s.busOwner := rfl
@[simp] theorem popInbox_bufs : s.popInbox.bufs = s.bufs := rfl
@[simp] theorem popInbox_countMax : s.popInbox.countMax = s.countMax := rfl
@[simp] theorem popInbox_cur : s.popInbox.cur = s.cur := rfl
@[simp] theorem popInbox_turns : s.popInbox.turns = s.turns := rfl
@[simp] theorem popInbox_free : s.popInbox.free = s.free := rfl

/-! ### View.emit -/

@[simp] theorem emit_me (e : Event) : (v.emit e).me = v.me := rfl
@[simp] theorem emit_owner (e : Event) : (v.emit e).owner = v.owner := rfl
@[simp] theorem emit_bufs (e : Event) : (v.emit e).bufs = v.bufs := rfl
@[simp] theorem emit_countMax (e : Event) : (v.emit e).countMax = v.countMax := rfl
@[simp] theorem emit_free (e : Event) : (v.emit e).free = v.free := rfl
@[simp] theorem emit_lent (e : Event) : (v.emit e).lent = v.lent := rfl
@[simp] theorem emit_inst_cfg (e : Event) : (v.emit e).inst.cfg = v.inst.cfg := rfl
@[simp] theorem emit_inst_cs (e : Event) : (v.emit e).inst.cs = v.inst.cs := rfl
@[simp] theorem emit_inst_rst (e : Event) : (v.emit e).inst.rst = v.inst.rst := rfl
@[simp] theorem emit_inst_fault (e : Event) : (v.emit e).inst.fault = v.inst.fault := rfl
@[simp] theorem emit_inst_trace (e : Event) : (v.emit e).inst.trace = v.inst.trace ++ [e] := rfl
@[simp] theorem emit_inst_phase (e : Event) : (v.emit e).inst.phase = v.inst.phase := rfl
@[simp] theorem emit_inst_k (e : Event) : (v.emit e).inst.k = v.inst.k := rfl
@[simp] theorem emit_inst_initAt (e : Event) : (v.emit e).inst.initAt = v.inst.initAt := rfl
@[simp] theorem emit_inst_dp (e : Event) : (v.emit e).inst.dp = v.inst.dp := rfl
@[simp] theorem emit_inst_results (e : Event) : (v.emit e).inst.results = v.inst.results := rfl
@[simp] theorem emit_inst_inbox (e : Event) : (v.emit e).inst.inbox = v.inst.inbox := rfl
@[simp] theorem emit_inst_rxIn (e : Event) : (v.emit e).inst.rxIn = v.inst.rxIn := rfl
@[simp] theorem emit_inst_lvlIn (e : Event) : (v.emit e).inst.lvlIn = v.inst.lvlIn := rfl

/-! ### View.goto -/

@[simp] theorem goto_me (p : Phase) : (v.goto p).me = v.me := rfl
@[simp] theorem goto_owner (p : Phase) : (v.goto p).owner = v.owner := rfl
@[simp] theorem goto_bufs (p : Phase) : (v.goto p).bufs = v.bufs := rfl
@[simp] theorem goto_countMax (p : Phase) : (v.goto p).countMax = v.countMax := rfl
@[simp] theorem goto_free (p : Phase) : (v.goto p).free = v.free := rfl
@[simp] theorem goto_lent (p : Phase) : (v.goto p).lent = v.lent := rfl
@[simp] theorem goto_inst_cfg (p : Phase) : (v.goto p).inst.cfg = v.inst.cfg := rfl
@[simp] theorem goto_inst_cs (p : Phase) : (v.goto p).inst.cs = v.inst.cs := rfl
@[simp] theorem goto_inst_rst (p : Phase) : (v.goto p).inst.rst = v.inst.rst := rfl
@[simp] theorem goto_inst_fault (p : Phase) : (v.goto p).inst.fault = v.inst.fault := rfl
@[simp] theorem goto_inst_trace (p : Phase) : (v.goto p).inst.trace = v.inst.trace := rfl
@[simp] theorem goto_inst_phase (p : Phase) : (v.goto p).inst.phase = p := rfl
@[simp] theorem goto_inst_k (p : Phase) : (v.goto p).inst.k = v.inst.k := rfl
@[simp] theorem goto_inst_initAt (p : Phase) : (v.goto p).inst.initAt = v.inst.initAt := rfl
@[simp] theorem goto_inst_dp (p : Phase) : (v.goto p).inst.dp = v.inst.dp := rfl
@[simp] theorem goto_inst_results (p : Phase) : (v.goto p).inst.results = v.inst.results := rfl
@[simp] theorem goto_inst_inbox (p : Phase) : (v.goto p).inst.inbox = v.inst.inbox := rfl
@[simp] theorem goto_inst_rxIn (p : Phase) : (v.goto p).inst.rxIn = v.inst.rxIn := rfl
@[simp] theorem goto_inst_lvlIn (p : Phase) : (v.goto p).inst.lvlIn = v.inst.lvlIn := rfl

/-! ### View.setDp -/

@[simp] theorem setDp_me (d : Datapath) : (v.setDp d).me = v.me := rfl
@[simp] theorem setDp_owner (d : Datapath) : (v.setDp d).owner = v.owner := rfl
@[simp] theorem setDp_bufs (d : Datapath) : (v.setDp d).bufs = v.bufs := rfl
@[simp] theorem setDp_countMax (d : Datapath) : (v.setDp d).countMax = v.countMax := rfl
@[simp] theorem setDp_free (d : Datapath) : (v.setDp d).free = v.free := rfl
@[simp] theorem setDp_lent (d : Datapath) : (v.setDp d).lent = v.lent := rfl
@[simp] theorem setDp_inst_cfg (d : Datapath) : (v.setDp d).inst.cfg = v.inst.cfg := rfl
@[simp] theorem setDp_inst_cs (d : Datapath) : (v.setDp d).inst.cs = v.inst.cs := rfl
@[simp] theorem setDp_inst_rst (d : Datapath) : (v.setDp d).inst.rst = v.inst.rst := rfl
@[simp] theorem setDp_inst_fault (d : Datapath) : (v.setDp d).inst.fault = v.inst.fault := rfl
@[simp] theorem setDp_inst_trace (d : Datapath) : (v.setDp d).inst.trace = v.inst.trace := rfl
@[simp] theorem setDp_inst_phase (d : Datapath) : (v.setDp d).inst.phase = v.inst.phase := rfl
@[simp] theorem setDp_inst_k (d : Datapath) : (v.setDp d).inst.k = v.inst.k := rfl
@[simp] theorem setDp_inst_initAt (d : Datapath) : (v.setDp d).inst.initAt = v.inst.initAt := rfl
@[simp] theorem setDp_inst_dp (d : Datapath) : (v.setDp d).inst.dp = d := rfl
@[simp] theorem setDp_inst_results (d : Datapath) : (v.setDp d).inst.results = v.inst.results := rfl
@[simp] theorem setDp_inst_inbox (d : Datapath) : (v.setDp d).inst.inbox = v.inst.inbox := rfl
@[simp] theorem setDp_inst_rxIn (d : Datapath) : (v.setDp d).inst.rxIn = v.inst.rxIn := rfl
@[simp] theorem setDp_inst_lvlIn (d : Datapath) : (v.setDp d).inst.lvlIn = v.inst.lvlIn := rfl

/-! ### View.accept -/

@[simp] theorem accept_me (d : Datapath) : (v.accept d).me = v.me := rfl
@[simp] theorem accept_owner (d : Datapath) : (v.accept d).owner = v.owner := rfl
@[simp] theorem accept_bufs (d : Datapath) : (v.accept d).bufs = v.bufs := rfl
@[simp] theorem accept_countMax (d : Datapath) : (v.accept d).countMax = v.countMax := rfl
@[simp] theorem accept_free (d : Datapath) : (v.accept d).free = v.free := rfl
@[simp] theorem accept_lent (d : Datapath) : (v.accept d).lent = v.lent := rfl
@[simp] theorem accept_inst_cfg (d : Datapath) : (v.accept d).inst.cfg = v.inst.cfg := rfl
@[simp] theorem accept_inst_cs (d : Datapath) : (v.accept d).inst.cs = v.inst.cs := rfl
@[simp] theorem accept_inst_rst (d : Datapath) : (v.accept d).inst.rst = v.inst.rst := rfl
@[simp] theorem accept_inst_fault (d : Datapath) : (v.accept d).inst.fault = v.inst.fault := rfl
@[simp] theorem accept_inst_trace (d : Datapath) : (v.accept d).inst.trace = v.inst.trace := rfl
@[simp] theorem accept_inst_phase (d : Datapath) : (v.accept d).inst.phase = .acq := rfl
@[simp] theorem accept_inst_k (d : Datapath) : (v.accept d).inst.k = 0 := rfl
@[simp] theorem accept_inst_initAt (d : Datapath) : (v.accept d).inst.initAt = v.inst.initAt := rfl
@[simp] theorem accept_inst_dp (d : Datapath) : (v.accept d).inst.dp = d := rfl
@[simp] theorem accept_inst_results (d : Datapath) : (v.accept d).inst.results = v.inst.results := rfl
@[simp] theorem accept_inst_inbox (d : Datapath) : (v.accept d).inst.inbox = v.inst.inbox := rfl
@[simp] theorem accept_inst_rxIn (d : Datapath) : (v.accept d).inst.rxIn = v.inst.rxIn := rfl
@[simp] theorem accept_inst_lvlIn (d : Datapath) : (v.accept d).inst.lvlIn = v.inst.lvlIn := rfl

/-! ### View.raise -/

@[simp] theorem raise_me (c : FaultCode) : (v.raise c).me = v.me := rfl
@[simp] theorem raise_owner (c : FaultCode) : (v.raise c).owner = v.owner := rfl
@[simp] theorem raise_bufs (c : FaultCode) : (v.raise c).bufs = v.bufs := rfl
@[simp] theorem raise_countMax (c : FaultCode) : (v.raise c).countMax = v.countMax := rfl
@[simp] theorem raise_free (c : FaultCode) : (v.raise c).free = v.free := rfl
@[simp] theorem raise_lent (c : FaultCode) : (v.raise c).lent = v.lent := rfl
@[simp] theorem raise_inst_cfg (c : FaultCode) : (v.raise c).inst.cfg = v.inst.cfg := rfl
@[simp] theorem raise_inst_cs (c : FaultCode) : (v.raise c).inst.cs = v.inst.cs := rfl
@[simp] theorem raise_inst_rst (c : FaultCode) : (v.raise c).inst.rst = v.inst.rst := rfl
@[simp] theorem raise_inst_fault (c : FaultCode) : (v.raise c).inst.fault = some c := rfl
@[simp] theorem raise_inst_trace (c : FaultCode) : (v.raise c).inst.trace = v.inst.trace := rfl
@[simp] theorem raise_inst_phase (c : FaultCode) : (v.raise c).inst.phase = .faulted := rfl
@[simp] theorem raise_inst_k (c : FaultCode) : (v.raise c).inst.k = v.inst.k := rfl
@[simp] theorem raise_inst_initAt (c : FaultCode) : (v.raise c).inst.initAt = v.inst.initAt := rfl
@[simp] theorem raise_inst_dp (c : FaultCode) : (v.raise c).inst.dp = v.inst.dp := rfl
@[simp] theorem raise_inst_results (c : FaultCode) : (v.raise c).inst.results = v.inst.results := rfl
@[simp] theorem raise_inst_inbox (c : FaultCode) : (v.raise c).inst.inbox = v.inst.inbox := rfl
@[simp] theorem raise_inst_rxIn (c : FaultCode) : (v.raise c).inst.rxIn = v.inst.rxIn := rfl
@[simp] theorem raise_inst_lvlIn (c : FaultCode) : (v.raise c).inst.lvlIn = v.inst.lvlIn := rfl

/-! ### View.hold -/

@[simp] theorem hold_me (i : Instr) : (v.hold i).me = v.me := rfl
@[simp] theorem hold_owner (i : Instr) : (v.hold i).owner = v.owner := rfl
@[simp] theorem hold_bufs (i : Instr) : (v.hold i).bufs = v.bufs := rfl
@[simp] theorem hold_countMax (i : Instr) : (v.hold i).countMax = v.countMax := rfl
@[simp] theorem hold_free (i : Instr) : (v.hold i).free = v.free := rfl
@[simp] theorem hold_lent (i : Instr) : (v.hold i).lent = v.lent := rfl
@[simp] theorem hold_inst_cfg (i : Instr) : (v.hold i).inst.cfg = v.inst.cfg := rfl
@[simp] theorem hold_inst_cs (i : Instr) : (v.hold i).inst.cs = v.inst.cs := rfl
@[simp] theorem hold_inst_rst (i : Instr) : (v.hold i).inst.rst = v.inst.rst := rfl
@[simp] theorem hold_inst_fault (i : Instr) : (v.hold i).inst.fault = v.inst.fault := rfl
@[simp] theorem hold_inst_trace (i : Instr) : (v.hold i).inst.trace = v.inst.trace := rfl
@[simp] theorem hold_inst_phase (i : Instr) : (v.hold i).inst.phase = v.inst.phase := rfl
@[simp] theorem hold_inst_k (i : Instr) : (v.hold i).inst.k = v.inst.k := rfl
@[simp] theorem hold_inst_initAt (i : Instr) : (v.hold i).inst.initAt = v.inst.initAt := rfl
@[simp] theorem hold_inst_dp (i : Instr) : (v.hold i).inst.dp = v.inst.dp := rfl
@[simp] theorem hold_inst_results (i : Instr) : (v.hold i).inst.results = v.inst.results := rfl
@[simp] theorem hold_inst_inbox (i : Instr) : (v.hold i).inst.inbox = encodeRecord i :: v.inst.inbox := rfl
@[simp] theorem hold_inst_rxIn (i : Instr) : (v.hold i).inst.rxIn = v.inst.rxIn := rfl
@[simp] theorem hold_inst_lvlIn (i : Instr) : (v.hold i).inst.lvlIn = v.inst.lvlIn := rfl

/-! ### View.ret -/

@[simp] theorem ret_me : (v.ret).me = v.me := rfl
@[simp] theorem ret_owner : (v.ret).owner = v.owner := rfl
@[simp] theorem ret_bufs : (v.ret).bufs = v.bufs := rfl
@[simp] theorem ret_countMax : (v.ret).countMax = v.countMax := rfl
@[simp] theorem ret_free : (v.ret).free = v.free + 1 := rfl
@[simp] theorem ret_lent : (v.ret).lent = v.lent := rfl
@[simp] theorem ret_inst_cfg : (v.ret).inst.cfg = v.inst.cfg := rfl
@[simp] theorem ret_inst_cs : (v.ret).inst.cs = v.inst.cs := rfl
@[simp] theorem ret_inst_rst : (v.ret).inst.rst = v.inst.rst := rfl
@[simp] theorem ret_inst_fault : (v.ret).inst.fault = v.inst.fault := rfl
@[simp] theorem ret_inst_trace : (v.ret).inst.trace = v.inst.trace := rfl
@[simp] theorem ret_inst_phase : (v.ret).inst.phase = .idle := rfl
@[simp] theorem ret_inst_k : (v.ret).inst.k = 0 := rfl
@[simp] theorem ret_inst_initAt : (v.ret).inst.initAt = none := rfl
@[simp] theorem ret_inst_dp : (v.ret).inst.dp = Config.idleDatapath v.free := rfl
@[simp] theorem ret_inst_results : (v.ret).inst.results = v.inst.results ++ [v.inst.dp.res] := rfl
@[simp] theorem ret_inst_inbox : (v.ret).inst.inbox = v.inst.inbox := rfl
@[simp] theorem ret_inst_rxIn : (v.ret).inst.rxIn = v.inst.rxIn := rfl
@[simp] theorem ret_inst_lvlIn : (v.ret).inst.lvlIn = v.inst.lvlIn := rfl

/-! ### View.busBegin -/

@[simp] theorem busBegin_me : (v.busBegin).me = v.me := rfl
@[simp] theorem busBegin_owner : (v.busBegin).owner = some (.framer v.me) := rfl
@[simp] theorem busBegin_bufs : (v.busBegin).bufs = v.bufs := rfl
@[simp] theorem busBegin_countMax : (v.busBegin).countMax = v.countMax := rfl
@[simp] theorem busBegin_free : (v.busBegin).free = v.free := rfl
@[simp] theorem busBegin_lent : (v.busBegin).lent = v.lent := rfl
@[simp] theorem busBegin_inst_cfg : (v.busBegin).inst.cfg = v.inst.cfg := rfl
@[simp] theorem busBegin_inst_cs : (v.busBegin).inst.cs = v.inst.cs := rfl
@[simp] theorem busBegin_inst_rst : (v.busBegin).inst.rst = v.inst.rst := rfl
@[simp] theorem busBegin_inst_fault : (v.busBegin).inst.fault = v.inst.fault := rfl
@[simp] theorem busBegin_inst_trace : (v.busBegin).inst.trace = v.inst.trace ++ [.busBegin v.inst.cfg.bus] := rfl
@[simp] theorem busBegin_inst_phase : (v.busBegin).inst.phase = v.inst.phase := rfl
@[simp] theorem busBegin_inst_k : (v.busBegin).inst.k = v.inst.k := rfl
@[simp] theorem busBegin_inst_initAt : (v.busBegin).inst.initAt = v.inst.initAt := rfl
@[simp] theorem busBegin_inst_dp : (v.busBegin).inst.dp = v.inst.dp := rfl
@[simp] theorem busBegin_inst_results : (v.busBegin).inst.results = v.inst.results := rfl
@[simp] theorem busBegin_inst_inbox : (v.busBegin).inst.inbox = v.inst.inbox := rfl
@[simp] theorem busBegin_inst_rxIn : (v.busBegin).inst.rxIn = v.inst.rxIn := rfl
@[simp] theorem busBegin_inst_lvlIn : (v.busBegin).inst.lvlIn = v.inst.lvlIn := rfl

/-! ### View.busEnd -/

@[simp] theorem busEnd_me : (v.busEnd).me = v.me := rfl
@[simp] theorem busEnd_owner : (v.busEnd).owner = none := rfl
@[simp] theorem busEnd_bufs : (v.busEnd).bufs = v.bufs := rfl
@[simp] theorem busEnd_countMax : (v.busEnd).countMax = v.countMax := rfl
@[simp] theorem busEnd_free : (v.busEnd).free = v.free := rfl
@[simp] theorem busEnd_lent : (v.busEnd).lent = v.lent := rfl
@[simp] theorem busEnd_inst_cfg : (v.busEnd).inst.cfg = v.inst.cfg := rfl
@[simp] theorem busEnd_inst_cs : (v.busEnd).inst.cs = v.inst.cs := rfl
@[simp] theorem busEnd_inst_rst : (v.busEnd).inst.rst = v.inst.rst := rfl
@[simp] theorem busEnd_inst_fault : (v.busEnd).inst.fault = v.inst.fault := rfl
@[simp] theorem busEnd_inst_trace : (v.busEnd).inst.trace = v.inst.trace ++ [.busEnd] := rfl
@[simp] theorem busEnd_inst_phase : (v.busEnd).inst.phase = v.inst.phase := rfl
@[simp] theorem busEnd_inst_k : (v.busEnd).inst.k = v.inst.k := rfl
@[simp] theorem busEnd_inst_initAt : (v.busEnd).inst.initAt = v.inst.initAt := rfl
@[simp] theorem busEnd_inst_dp : (v.busEnd).inst.dp = v.inst.dp := rfl
@[simp] theorem busEnd_inst_results : (v.busEnd).inst.results = v.inst.results := rfl
@[simp] theorem busEnd_inst_inbox : (v.busEnd).inst.inbox = v.inst.inbox := rfl
@[simp] theorem busEnd_inst_rxIn : (v.busEnd).inst.rxIn = v.inst.rxIn := rfl
@[simp] theorem busEnd_inst_lvlIn : (v.busEnd).inst.lvlIn = v.inst.lvlIn := rfl

/-! ### View.countXfer -/

@[simp] theorem countXfer_me : (v.countXfer).me = v.me := rfl
@[simp] theorem countXfer_owner : (v.countXfer).owner = v.owner := rfl
@[simp] theorem countXfer_bufs : (v.countXfer).bufs = v.bufs := rfl
@[simp] theorem countXfer_countMax : (v.countXfer).countMax = v.countMax := rfl
@[simp] theorem countXfer_free : (v.countXfer).free = v.free := rfl
@[simp] theorem countXfer_lent : (v.countXfer).lent = v.lent := rfl
@[simp] theorem countXfer_inst_cfg : (v.countXfer).inst.cfg = v.inst.cfg := rfl
@[simp] theorem countXfer_inst_cs : (v.countXfer).inst.cs = v.inst.cs := rfl
@[simp] theorem countXfer_inst_rst : (v.countXfer).inst.rst = v.inst.rst := rfl
@[simp] theorem countXfer_inst_fault : (v.countXfer).inst.fault = v.inst.fault := rfl
@[simp] theorem countXfer_inst_trace : (v.countXfer).inst.trace = v.inst.trace := rfl
@[simp] theorem countXfer_inst_phase : (v.countXfer).inst.phase = if v.inst.k + 1 < v.inst.dp.plan.length then .xfer else .desel := rfl
@[simp] theorem countXfer_inst_k : (v.countXfer).inst.k = v.inst.k + 1 := rfl
@[simp] theorem countXfer_inst_initAt : (v.countXfer).inst.initAt = v.inst.initAt := rfl
@[simp] theorem countXfer_inst_dp : (v.countXfer).inst.dp = v.inst.dp := rfl
@[simp] theorem countXfer_inst_results : (v.countXfer).inst.results = v.inst.results := rfl
@[simp] theorem countXfer_inst_inbox : (v.countXfer).inst.inbox = v.inst.inbox := rfl
@[simp] theorem countXfer_inst_rxIn : (v.countXfer).inst.rxIn = v.inst.rxIn := rfl
@[simp] theorem countXfer_inst_lvlIn : (v.countXfer).inst.lvlIn = v.inst.lvlIn := rfl

/-! ### View.gotoInit -/

@[simp] theorem gotoInit_me (st : InitStep) : (v.gotoInit st).me = v.me := rfl
@[simp] theorem gotoInit_owner (st : InitStep) : (v.gotoInit st).owner = v.owner := rfl
@[simp] theorem gotoInit_bufs (st : InitStep) : (v.gotoInit st).bufs = v.bufs := rfl
@[simp] theorem gotoInit_countMax (st : InitStep) : (v.gotoInit st).countMax = v.countMax := rfl
@[simp] theorem gotoInit_free (st : InitStep) : (v.gotoInit st).free = v.free := rfl
@[simp] theorem gotoInit_lent (st : InitStep) : (v.gotoInit st).lent = v.lent := rfl
@[simp] theorem gotoInit_inst_cfg (st : InitStep) : (v.gotoInit st).inst.cfg = v.inst.cfg := rfl
@[simp] theorem gotoInit_inst_cs (st : InitStep) : (v.gotoInit st).inst.cs = v.inst.cs := rfl
@[simp] theorem gotoInit_inst_rst (st : InitStep) : (v.gotoInit st).inst.rst = v.inst.rst := rfl
@[simp] theorem gotoInit_inst_fault (st : InitStep) : (v.gotoInit st).inst.fault = v.inst.fault := rfl
@[simp] theorem gotoInit_inst_trace (st : InitStep) : (v.gotoInit st).inst.trace = v.inst.trace := rfl
@[simp] theorem gotoInit_inst_phase (st : InitStep) : (v.gotoInit st).inst.phase = v.inst.phase := rfl
@[simp] theorem gotoInit_inst_k (st : InitStep) : (v.gotoInit st).inst.k = v.inst.k := rfl
@[simp] theorem gotoInit_inst_initAt (st : InitStep) : (v.gotoInit st).inst.initAt = some st := rfl
@[simp] theorem gotoInit_inst_dp (st : InitStep) : (v.gotoInit st).inst.dp = v.inst.dp := rfl
@[simp] theorem gotoInit_inst_results (st : InitStep) : (v.gotoInit st).inst.results = v.inst.results := rfl
@[simp] theorem gotoInit_inst_inbox (st : InitStep) : (v.gotoInit st).inst.inbox = v.inst.inbox := rfl
@[simp] theorem gotoInit_inst_rxIn (st : InitStep) : (v.gotoInit st).inst.rxIn = v.inst.rxIn := rfl
@[simp] theorem gotoInit_inst_lvlIn (st : InitStep) : (v.gotoInit st).inst.lvlIn = v.inst.lvlIn := rfl

/-! ### View.beginInit -/

@[simp] theorem beginInit_me : (v.beginInit).me = v.me := rfl
@[simp] theorem beginInit_owner : (v.beginInit).owner = v.owner := rfl
@[simp] theorem beginInit_bufs : (v.beginInit).bufs = v.bufs := rfl
@[simp] theorem beginInit_countMax : (v.beginInit).countMax = v.countMax := rfl
@[simp] theorem beginInit_free : (v.beginInit).free = v.free := rfl
@[simp] theorem beginInit_lent : (v.beginInit).lent = v.lent := rfl
@[simp] theorem beginInit_inst_cfg : (v.beginInit).inst.cfg = v.inst.cfg := rfl
@[simp] theorem beginInit_inst_cs : (v.beginInit).inst.cs = v.inst.cs := rfl
@[simp] theorem beginInit_inst_rst : (v.beginInit).inst.rst = v.inst.rst := rfl
@[simp] theorem beginInit_inst_fault : (v.beginInit).inst.fault = v.inst.fault := rfl
@[simp] theorem beginInit_inst_trace : (v.beginInit).inst.trace = v.inst.trace := rfl
@[simp] theorem beginInit_inst_phase : (v.beginInit).inst.phase = .idle := rfl
@[simp] theorem beginInit_inst_k : (v.beginInit).inst.k = 0 := rfl
@[simp] theorem beginInit_inst_initAt : (v.beginInit).inst.initAt = some .csMode := rfl
@[simp] theorem beginInit_inst_dp : (v.beginInit).inst.dp = { v.inst.dp with opr := .init, res := .none } := rfl
@[simp] theorem beginInit_inst_results : (v.beginInit).inst.results = v.inst.results := rfl
@[simp] theorem beginInit_inst_inbox : (v.beginInit).inst.inbox = v.inst.inbox := rfl
@[simp] theorem beginInit_inst_rxIn : (v.beginInit).inst.rxIn = v.inst.rxIn := rfl
@[simp] theorem beginInit_inst_lvlIn : (v.beginInit).inst.lvlIn = v.inst.lvlIn := rfl

/-! ### View.initDone -/

@[simp] theorem initDone_me (b : Bool) : (v.initDone b).me = v.me := rfl
@[simp] theorem initDone_owner (b : Bool) : (v.initDone b).owner = v.owner := rfl
@[simp] theorem initDone_bufs (b : Bool) : (v.initDone b).bufs = v.bufs := rfl
@[simp] theorem initDone_countMax (b : Bool) : (v.initDone b).countMax = v.countMax := rfl
@[simp] theorem initDone_free (b : Bool) : (v.initDone b).free = v.free := rfl
@[simp] theorem initDone_lent (b : Bool) : (v.initDone b).lent = v.lent := rfl
@[simp] theorem initDone_inst_cfg (b : Bool) : (v.initDone b).inst.cfg = v.inst.cfg := rfl
@[simp] theorem initDone_inst_cs (b : Bool) : (v.initDone b).inst.cs = v.inst.cs := rfl
@[simp] theorem initDone_inst_rst (b : Bool) : (v.initDone b).inst.rst = v.inst.rst := rfl
@[simp] theorem initDone_inst_fault (b : Bool) : (v.initDone b).inst.fault = v.inst.fault := rfl
@[simp] theorem initDone_inst_trace (b : Bool) : (v.initDone b).inst.trace = v.inst.trace := rfl
@[simp] theorem initDone_inst_phase (b : Bool) : (v.initDone b).inst.phase = .done := rfl
@[simp] theorem initDone_inst_k (b : Bool) : (v.initDone b).inst.k = v.inst.k := rfl
@[simp] theorem initDone_inst_initAt (b : Bool) : (v.initDone b).inst.initAt = none := rfl
@[simp] theorem initDone_inst_dp (b : Bool) : (v.initDone b).inst.dp = { v.inst.dp with res := .bool b } := rfl
@[simp] theorem initDone_inst_results (b : Bool) : (v.initDone b).inst.results = v.inst.results := rfl
@[simp] theorem initDone_inst_inbox (b : Bool) : (v.initDone b).inst.inbox = v.inst.inbox := rfl
@[simp] theorem initDone_inst_rxIn (b : Bool) : (v.initDone b).inst.rxIn = v.inst.rxIn := rfl
@[simp] theorem initDone_inst_lvlIn (b : Bool) : (v.initDone b).inst.lvlIn = v.inst.lvlIn := rfl

/-! ### Pins -/

variable (f : Framer) (p : PinId) (g : Pin → Pin)

@[simp] theorem modPin_cfg : (f.modPin p g).cfg = f.cfg := by
  unfold Framer.modPin; split <;> [rfl; (split <;> rfl)]
@[simp] theorem modPin_fault : (f.modPin p g).fault = f.fault := by
  unfold Framer.modPin; split <;> [rfl; (split <;> rfl)]
@[simp] theorem modPin_trace : (f.modPin p g).trace = f.trace := by
  unfold Framer.modPin; split <;> [rfl; (split <;> rfl)]
@[simp] theorem modPin_phase : (f.modPin p g).phase = f.phase := by
  unfold Framer.modPin; split <;> [rfl; (split <;> rfl)]
@[simp] theorem modPin_k : (f.modPin p g).k = f.k := by
  unfold Framer.modPin; split <;> [rfl; (split <;> rfl)]
@[simp] theorem modPin_initAt : (f.modPin p g).initAt = f.initAt := by
  unfold Framer.modPin; split <;> [rfl; (split <;> rfl)]
@[simp] theorem modPin_dp : (f.modPin p g).dp = f.dp := by
  unfold Framer.modPin; split <;> [rfl; (split <;> rfl)]
@[simp] theorem modPin_results : (f.modPin p g).results = f.results := by
  unfold Framer.modPin; split <;> [rfl; (split <;> rfl)]
@[simp] theorem modPin_inbox : (f.modPin p g).inbox = f.inbox := by
  unfold Framer.modPin; split <;> [rfl; (split <;> rfl)]
@[simp] theorem modPin_rxIn : (f.modPin p g).rxIn = f.rxIn := by
  unfold Framer.modPin; split <;> [rfl; (split <;> rfl)]
@[simp] theorem modPin_lvlIn : (f.modPin p g).lvlIn = f.lvlIn := by
  unfold Framer.modPin; split <;> [rfl; (split <;> rfl)]

@[simp] theorem modPin_own_cs : (f.modPin f.cfg.csPin g).cs = g f.cs := by simp [Framer.modPin]
@[simp] theorem modPin_own_rst : (f.modPin f.cfg.csPin g).rst = f.rst := by simp [Framer.modPin]

theorem modPin_other_cs (h : p ≠ f.cfg.csPin) : (f.modPin p g).cs = f.cs := by
  unfold Framer.modPin; rw [if_neg h]; split <;> rfl

theorem modPin_other_rst (h : p ≠ f.cfg.csPin) (hr : f.cfg.rstPin = some p) : (f.modPin p g).rst = g f.rst := by
  unfold Framer.modPin; rw [if_neg h, if_pos hr]

@[simp] theorem setDir_me (d : Dir) : (v.setDir p d).me = v.me := rfl
@[simp] theorem setDir_owner (d : Dir) : (v.setDir p d).owner = v.owner := rfl
@[simp] theorem setDir_bufs (d : Dir) : (v.setDir p d).bufs = v.bufs := rfl
@[simp] theorem setDir_countMax (d : Dir) : (v.setDir p d).countMax = v.countMax := rfl
@[simp] theorem setDir_free (d : Dir) : (v.setDir p d).free = v.free := rfl
@[simp] theorem setDir_lent (d : Dir) : (v.setDir p d).lent = v.lent := rfl
@[simp] theorem setDir_inst_cfg (d : Dir) : (v.setDir p d).inst.cfg = v.inst.cfg := modPin_cfg ..
@[simp] theorem setDir_inst_fault (d : Dir) : (v.setDir p d).inst.fault = v.inst.fault := modPin_fault ..
@[simp] theorem setDir_inst_trace (d : Dir) : (v.setDir p d).inst.trace = v.inst.trace := modPin_trace ..
@[simp] theorem setDir_inst_phase (d : Dir) : (v.setDir p d).inst.phase = v.inst.phase := modPin_phase ..
@[simp] theorem setDir_inst_k (d : Dir) : (v.setDir p d).inst.k = v.inst.k := modPin_k ..
@[simp] theorem setDir_inst_initAt (d : Dir) : (v.setDir p d).inst.initAt = v.inst.initAt := modPin_initAt ..
@[simp] theorem setDir_inst_dp (d : Dir) : (v.setDir p d).inst.dp = v.inst.dp := modPin_dp ..
@[simp] theorem setDir_inst_results (d : Dir) : (v.setDir p d).inst.results = v.inst.results := modPin_results ..
@[simp] theorem setDir_inst_inbox (d : Dir) : (v.setDir p d).inst.inbox = v.inst.inbox := modPin_inbox ..
@[simp] theorem setDir_inst_rxIn (d : Dir) : (v.setDir p d).inst.rxIn = v.inst.rxIn := modPin_rxIn ..
@[simp] theorem setDir_inst_lvlIn (d : Dir) : (v.setDir p d).inst.lvlIn = v.inst.lvlIn := modPin_lvlIn ..
@[simp] theorem setDir_inst_own_cs (d : Dir) : (v.setDir v.inst.cfg.csPin d).inst.cs = { v.inst.cs with dir := d.toPin } :=
  modPin_own_cs ..
@[simp] theorem setDir_inst_own_rst (d : Dir) : (v.setDir v.inst.cfg.csPin d).inst.rst = v.inst.rst := modPin_own_rst ..

@[simp] theorem setLvl_me (l : Level) : (v.setLvl p l).me = v.me := rfl
@[simp] theorem setLvl_owner (l : Level) : (v.setLvl p l).owner = v.owner := rfl
@[simp] theorem setLvl_bufs (l : Level) : (v.setLvl p l).bufs = v.bufs := rfl
@[simp] theorem setLvl_countMax (l : Level) : (v.setLvl p l).countMax = v.countMax := rfl
@[simp] theorem setLvl_free (l : Level) : (v.setLvl p l).free = v.free := rfl
@[simp] theorem setLvl_lent (l : Level) : (v.setLvl p l).lent = v.lent := rfl
@[simp] theorem setLvl_inst_cfg (l : Level) : (v.setLvl p l).inst.cfg = v.inst.cfg := modPin_cfg ..
@[simp] theorem setLvl_inst_fault (l : Level) : (v.setLvl p l).inst.fault = v.inst.fault := modPin_fault ..
@[simp] theorem setLvl_inst_trace (l : Level) : (v.setLvl p l).inst.trace = v.inst.trace := modPin_trace ..
@[simp] theorem setLvl_inst_phase (l : Level) : (v.setLvl p l).inst.phase = v.inst.phase := modPin_phase ..
@[simp] theorem setLvl_inst_k (l : Level) : (v.setLvl p l).inst.k = v.inst.k := modPin_k ..
@[simp] theorem setLvl_inst_initAt (l : Level) : (v.setLvl p l).inst.initAt = v.inst.initAt := modPin_initAt ..
@[simp] theorem setLvl_inst_dp (l : Level) : (v.setLvl p l).inst.dp = v.inst.dp := modPin_dp ..
@[simp] theorem setLvl_inst_results (l : Level) : (v.setLvl p l).inst.results = v.inst.results := modPin_results ..
@[simp] theorem setLvl_inst_inbox (l : Level) : (v.setLvl p l).inst.inbox = v.inst.inbox := modPin_inbox ..
@[simp] theorem setLvl_inst_rxIn (l : Level) : (v.setLvl p l).inst.rxIn = v.inst.rxIn := modPin_rxIn ..
@[simp] theorem setLvl_inst_lvlIn (l : Level) : (v.setLvl p l).inst.lvlIn = v.inst.lvlIn := modPin_lvlIn ..
@[simp] theorem setLvl_inst_own_cs (l : Level) : (v.setLvl v.inst.cfg.csPin l).inst.cs = { v.inst.cs with lvl := l.toPin } :=
  modPin_own_cs ..
@[simp] theorem setLvl_inst_own_rst (l : Level) : (v.setLvl v.inst.cfg.csPin l).inst.rst = v.inst.rst := modPin_own_rst ..

end Sys2Proof.Machine
end

