-- ==== Sys2Proof/Laws/Init.lean ====
section
/-! SUPPORT. What one event of INIT's pin sequence does, and that its events in a row are the pseudocode of
42_init_sequencer.md R150 read straight down. -/

namespace Sys2Proof.Machine

variable (v : View)

/-! ### Samples -/

@[simp] theorem drawLevel_me : v.drawLevel.2.me = v.me := by unfold View.drawLevel; split <;> rfl
@[simp] theorem drawLevel_owner : v.drawLevel.2.owner = v.owner := by unfold View.drawLevel; split <;> rfl
@[simp] theorem drawLevel_bufs : v.drawLevel.2.bufs = v.bufs := by unfold View.drawLevel; split <;> rfl
@[simp] theorem drawLevel_countMax : v.drawLevel.2.countMax = v.countMax := by unfold View.drawLevel; split <;> rfl
@[simp] theorem drawLevel_lent : v.drawLevel.2.lent = v.lent := by unfold View.drawLevel; split <;> rfl
@[simp] theorem drawLevel_cfg : v.drawLevel.2.inst.cfg = v.inst.cfg := by unfold View.drawLevel; split <;> rfl
@[simp] theorem drawLevel_cs : v.drawLevel.2.inst.cs = v.inst.cs := by unfold View.drawLevel; split <;> rfl
@[simp] theorem drawLevel_rst : v.drawLevel.2.inst.rst = v.inst.rst := by unfold View.drawLevel; split <;> rfl
@[simp] theorem drawLevel_fault : v.drawLevel.2.inst.fault = v.inst.fault := by unfold View.drawLevel; split <;> rfl
@[simp] theorem drawLevel_trace : v.drawLevel.2.inst.trace = v.inst.trace := by unfold View.drawLevel; split <;> rfl
@[simp] theorem drawLevel_phase : v.drawLevel.2.inst.phase = v.inst.phase := by unfold View.drawLevel; split <;> rfl
@[simp] theorem drawLevel_k : v.drawLevel.2.inst.k = v.inst.k := by unfold View.drawLevel; split <;> rfl
@[simp] theorem drawLevel_initAt : v.drawLevel.2.inst.initAt = v.inst.initAt := by unfold View.drawLevel; split <;> rfl
@[simp] theorem drawLevel_dp : v.drawLevel.2.inst.dp = v.inst.dp := by unfold View.drawLevel; split <;> rfl
@[simp] theorem drawLevel_results : v.drawLevel.2.inst.results = v.inst.results := by unfold View.drawLevel; split <;> rfl
@[simp] theorem drawLevel_inbox : v.drawLevel.2.inst.inbox = v.inst.inbox := by unfold View.drawLevel; split <;> rfl
@[simp] theorem drawLevel_rxIn : v.drawLevel.2.inst.rxIn = v.inst.rxIn := by unfold View.drawLevel; split <;> rfl

/-- The sampled level is the BUS's next answer (10_state.md R33). -/
theorem drawLevel_fst : v.drawLevel.1 = nextLevel v.inst.lvlIn v.free := by
  unfold View.drawLevel nextLevel
  split <;> simp [*]

theorem drawLevel_lvlIn : v.drawLevel.2.inst.lvlIn = v.inst.lvlIn.tail := by
  unfold View.drawLevel
  split <;> simp [*]

/-! ### One event -/

/-- Everything one event of INIT can do to the view v, by the event (42_init_sequencer.md R150, R152). -/
inductive InitMoved (v : View) : InitStep → View → Prop where
  | csMode : InitMoved v .csMode ((v.pinMode v.inst.cfg.csPin .output).gotoInit .csHigh)
  | csHighOnly (h : v.inst.cfg.rstPin = none) : InitMoved v .csHigh ((v.pinWrite v.inst.cfg.csPin .high).initDone false)
  | csHigh (p : PinId) (h : v.inst.cfg.rstPin = some p) :
      InitMoved v .csHigh ((v.pinWrite v.inst.cfg.csPin .high).gotoInit .rstMode)
  /-- The reset branch where no reset pin is configured: R152 never comes here. -/
  | absent (st : InitStep) (hs : st.onCs = false) (h : v.inst.cfg.rstPin = none) : InitMoved v st (v.initDone false)
  | rstMode (p : PinId) (h : v.inst.cfg.rstPin = some p) :
      InitMoved v .rstMode ((v.pinMode p .input).gotoInit .rstRead)
  | sampledLow (p : PinId) (h : v.inst.cfg.rstPin = some p) (hl : v.drawLevel.1 = .low) :
      InitMoved v .rstRead ((v.pinRead p).2.gotoInit .rstOut)
  | sampledHigh (p : PinId) (h : v.inst.cfg.rstPin = some p) (hl : v.drawLevel.1 = .high) :
      InitMoved v .rstRead ((v.pinRead p).2.initDone false)
  | rstOut (p : PinId) (h : v.inst.cfg.rstPin = some p) :
      InitMoved v .rstOut ((v.pinMode p .output).gotoInit .rstHigh)
  | rstHigh (p : PinId) (h : v.inst.cfg.rstPin = some p) :
      InitMoved v .rstHigh ((v.pinWrite p .high).gotoInit .settle)
  | settle : InitMoved v .settle ((v.delay Config.resetSettleMs).initDone true)

theorem onRst_none (act : PinId → View → View) (h : v.inst.cfg.rstPin = none) : v.onRst act = v.initDone false := by
  simp only [View.onRst, h]

theorem onRst_some (act : PinId → View → View) {p : PinId} (h : v.inst.cfg.rstPin = some p) :
    v.onRst act = act p v := by
  simp only [View.onRst, h]

theorem pinWrite_rstPin (q : PinId) (l : Level) : (v.pinWrite q l).inst.cfg.rstPin = v.inst.cfg.rstPin := by
  simp [View.pinWrite]

theorem initStep_moved (st : InitStep) : InitMoved v st (v.initStep st) := by
  cases h : v.inst.cfg.rstPin with
  | none =>
    cases st with
    | csMode => exact .csMode
    | csHigh =>
      rw [View.initStep, onRst_none _ _ ((pinWrite_rstPin v _ _).trans h)]
      exact .csHighOnly h
    | settle => exact .settle
    | rstMode | rstRead | rstOut | rstHigh =>
      rw [View.initStep, onRst_none v _ h]
      exact .absent _ rfl h
  | some p =>
    cases st with
    | csMode => exact .csMode
    | csHigh =>
      rw [View.initStep, onRst_some _ _ ((pinWrite_rstPin v _ _).trans h)]
      exact .csHigh p h
    | rstMode => rw [View.initStep, onRst_some v _ h]; exact .rstMode p h
    | rstRead =>
      rw [View.initStep, onRst_some v _ h]
      cases hl : v.drawLevel.1 with
      | low =>
        have e : (v.pinRead p).2.afterSample (v.pinRead p).1 = (v.pinRead p).2.gotoInit .rstOut := by
          show (v.pinRead p).2.afterSample v.drawLevel.1 = _
          rw [hl]; rfl
        rw [e]
        exact .sampledLow p h hl
      | high =>
        have e : (v.pinRead p).2.afterSample (v.pinRead p).1 = (v.pinRead p).2.initDone false := by
          show (v.pinRead p).2.afterSample v.drawLevel.1 = _
          rw [hl]; rfl
        rw [e]
        exact .sampledHigh p h hl
    | rstOut => rw [View.initStep, onRst_some v _ h]; exact .rstOut p h
    | rstHigh => rw [View.initStep, onRst_some v _ h]; exact .rstHigh p h
    | settle => exact .settle

/-- What the next event of INIT does: nothing at rest. -/
theorem advanceInit_moved : (v.inst.initAt = none ∧ v.advanceInit = v) ∨
    ∃ st, v.inst.initAt = some st ∧ InitMoved v st v.advanceInit := by
  unfold View.advanceInit
  cases h : v.inst.initAt with
  | none => exact .inl ⟨rfl, rfl⟩
  | some st => exact .inr ⟨st, rfl, initStep_moved v st⟩

/-- The parts of a view no event of INIT changes (R154: the bus register is one of them). -/
structure InitKept (v w : View) : Prop where
  me : w.me = v.me
  owner : w.owner = v.owner
  bufs : w.bufs = v.bufs
  countMax : w.countMax = v.countMax
  lent : w.lent = v.lent
  cfg : w.inst.cfg = v.inst.cfg
  fault : w.inst.fault = v.inst.fault
  results : w.inst.results = v.inst.results
  inbox : w.inst.inbox = v.inst.inbox
  rxIn : w.inst.rxIn = v.inst.rxIn
  k : w.inst.k = v.inst.k
  opr : w.inst.dp.opr = v.inst.dp.opr

variable {v} {w : View} {st : InitStep}

theorem InitMoved.kept (h : InitMoved v st w) : InitKept v w := by
  cases h <;> constructor <;> simp [View.pinMode, View.pinWrite, View.pinRead, View.delay]

/-- An event of INIT appends at most one event, neither on the bus nor a pin driven LOW (R154, R155). -/
theorem InitMoved.trace (h : InitMoved v st w) :
    ∃ evs, w.inst.trace = v.inst.trace ++ evs ∧ ∀ e ∈ evs, e.onBus = false ∧ ∀ p, e ≠ .pinWrite p .low := by
  cases h <;> simp [View.pinMode, View.pinWrite, View.pinRead, View.delay, Event.onBus]

/-- An event of INIT leads to its next event, or to DONE. -/
theorem InitMoved.goes (h : InitMoved v st w) :
    (∃ st', w.inst.initAt = some st' ∧ st.left = st'.left + 1 ∧ (st'.onCs = true ∨ v.inst.cfg.rstPin.isSome = true) ∧
      w.inst.phase = v.inst.phase) ∨
    (w.inst.initAt = none ∧ w.inst.phase = .done) := by
  cases h
  case csMode => exact .inl ⟨.csHigh, rfl, rfl, .inl rfl, by simp [View.pinMode]⟩
  case csHigh p h => exact .inl ⟨.rstMode, rfl, rfl, .inr (by rw [h]; rfl), by simp [View.pinWrite]⟩
  case rstMode p h => exact .inl ⟨.rstRead, rfl, rfl, .inr (by rw [h]; rfl), by simp [View.pinMode]⟩
  case sampledLow p h hl => exact .inl ⟨.rstOut, rfl, rfl, .inr (by rw [h]; rfl), by simp [View.pinRead]⟩
  case rstOut p h => exact .inl ⟨.rstHigh, rfl, rfl, .inr (by rw [h]; rfl), by simp [View.pinMode]⟩
  case rstHigh p h => exact .inl ⟨.settle, rfl, rfl, .inr (by rw [h]; rfl), by simp [View.pinWrite]⟩
  all_goals exact .inr ⟨rfl, rfl⟩

/-- Where the two pins differ, chip-select is an output once it was one, and HIGH once it was; the events on it set it so. -/
theorem InitMoved.cs (h : InitMoved v st w) (hp : v.inst.cfg.rstPin ≠ some v.inst.cfg.csPin) :
    w.inst.cs = match st with
      | .csMode => { v.inst.cs with dir := .output }
      | .csHigh => { v.inst.cs with lvl := .high }
      | .rstMode | .rstRead | .rstOut | .rstHigh | .settle => v.inst.cs := by
  have hne : ∀ p, v.inst.cfg.rstPin = some p → p ≠ v.inst.cfg.csPin := fun p h e => hp (by rw [h, e])
  cases h
  case csMode => exact setDir_inst_own_cs v .output
  case csHighOnly => exact setLvl_inst_own_cs v .high
  case csHigh => exact setLvl_inst_own_cs v .high
  case absent _ hs =>
    cases st with
    | csMode => exact absurd (show InitStep.onCs .csMode = false from hs) (by decide)
    | csHigh => exact absurd (show InitStep.onCs .csHigh = false from hs) (by decide)
    | rstMode | rstRead | rstOut | rstHigh | settle => rfl
  case rstMode p h => exact modPin_other_cs _ _ _ (hne p h)
  case sampledLow => exact drawLevel_cs v
  case sampledHigh => exact drawLevel_cs v
  case rstOut p h => exact modPin_other_cs _ _ _ (hne p h)
  case rstHigh p h => exact modPin_other_cs _ _ _ (hne p h)
  case settle => rfl

/-- No event of INIT drives chip-select LOW (R155). -/
theorem InitMoved.not_low (h : InitMoved v st w) (hl : v.inst.cs.lvl ≠ .low) : w.inst.cs.lvl ≠ .low := by
  have hd : ∀ (p : PinId) (d : Dir), (v.setDir p d).inst.cs.lvl ≠ .low := by
    intro p d
    unfold View.setDir Framer.modPin
    split
    · exact hl
    · split <;> exact hl
  have hw : ∀ p : PinId, (v.setLvl p .high).inst.cs.lvl ≠ .low := by
    intro p
    unfold View.setLvl Framer.modPin
    split
    · exact nofun
    · split <;> exact hl
  cases h
  case csMode => exact hd _ _
  case csHighOnly => exact hw _
  case csHigh => exact hw _
  case absent => exact hl
  case rstMode => exact hd _ _
  case sampledLow => rw [gotoInit_inst_cs]; exact (drawLevel_cs v).symm ▸ hl
  case sampledHigh => rw [initDone_inst_cs]; exact (drawLevel_cs v).symm ▸ hl
  case rstOut => exact hd _ _
  case rstHigh => exact hw _
  case settle => exact hl

/-! ### All of its events -/

variable (v)

theorem runInit_rest (n : Nat) (h : v.inst.initAt = none) : v.runInit n = v := by
  induction n with
  | zero => rfl
  | succ n ih =>
    have e : v.advanceInit = v := by simp only [View.advanceInit, h]
    rw [View.runInit, e, ih]

/-- Chip-select an output, deasserted: always first (R151). -/
def View.initCs : View := (v.pinMode v.inst.cfg.csPin .output).pinWrite v.inst.cfg.csPin .high

/-- The exit from hard power-down: an output, driven HIGH, and the settle delay (R150, R158). -/
def View.exitPowerDown (p : PinId) : View := ((v.pinMode p .output).pinWrite p .high).delay Config.resetSettleMs

/-- The reset pin p made an input and sampled (R150). -/
def View.sampleRst (p : PinId) : Level × View := (v.pinMode p .input).pinRead p

/-- The reset branch of R152, with INIT's result (R153). -/
def View.initRst : Bool × View :=
  match v.inst.cfg.rstPin with
  | none => (false, v)
  | some p => match (v.sampleRst p).1 with
    | .low => (true, (v.sampleRst p).2.exitPowerDown p)
    | .high => (false, (v.sampleRst p).2)

/-- The pseudocode of R150 read straight down. -/
def View.initSeq : View := v.initCs.initRst.2.initDone v.initCs.initRst.1

/-! Which event comes next is not looked at by the events themselves. -/

theorem modPin_initAt_comm (f : Framer) (p : PinId) (g : Pin → Pin) (a : Option InitStep) :
    ({ f with initAt := a }).modPin p g = { f.modPin p g with initAt := a } := by
  unfold Framer.modPin
  split
  · rfl
  · split <;> rfl

theorem gotoInit_initDone (st : InitStep) (b : Bool) : (v.gotoInit st).initDone b = v.initDone b := rfl

theorem gotoInit_gotoInit (st st' : InitStep) : (v.gotoInit st).gotoInit st' = v.gotoInit st' := rfl

theorem gotoInit_pinMode (st : InitStep) (p : PinId) (d : Dir) :
    (v.gotoInit st).pinMode p d = (v.pinMode p d).gotoInit st := by
  simp only [View.pinMode, View.setDir, View.emit, View.gotoInit, modPin_initAt_comm, modPin_trace]

theorem gotoInit_pinWrite (st : InitStep) (p : PinId) (l : Level) :
    (v.gotoInit st).pinWrite p l = (v.pinWrite p l).gotoInit st := by
  simp only [View.pinWrite, View.setLvl, View.emit, View.gotoInit, modPin_initAt_comm, modPin_trace]

theorem gotoInit_pinRead (st : InitStep) (p : PinId) :
    (v.gotoInit st).pinRead p = ((v.pinRead p).1, (v.pinRead p).2.gotoInit st) := by
  simp only [View.pinRead, View.drawLevel, View.emit, View.gotoInit]
  split <;> rfl

theorem runInit_goto (n : Nat) (st : InitStep) (w : View) (h : (v.gotoInit st).initStep st = w) :
    (v.gotoInit st).runInit (n + 1) = w.runInit n := by rw [← h]; rfl

theorem runInit_initDone (n : Nat) (b : Bool) : (v.initDone b).runInit n = v.initDone b := runInit_rest _ n rfl

/-- The exit from hard power-down, event by event. -/
theorem runInit_exit (p : PinId) (h : v.inst.cfg.rstPin = some p) :
    (v.gotoInit .rstOut).runInit 3 = (v.exitPowerDown p).initDone true := by
  rw [runInit_goto v 2 .rstOut ((v.pinMode p .output).gotoInit .rstHigh)
      (by rw [View.initStep, onRst_some (v.gotoInit .rstOut) _ h, gotoInit_pinMode, gotoInit_gotoInit]),
    runInit_goto _ 1 .rstHigh (((v.pinMode p .output).pinWrite p .high).gotoInit .settle)
      (by rw [View.initStep, onRst_some _ _ (p := p) (by simpa [View.pinMode] using h), gotoInit_pinWrite,
        gotoInit_gotoInit]),
    runInit_goto _ 0 .settle ((v.exitPowerDown p).initDone true) rfl]
  rfl

/-- The reset branch, event by event. -/
theorem runInit_rst (p : PinId) (h : v.inst.cfg.rstPin = some p) :
    (v.gotoInit .rstMode).runInit 5 = v.initRst.2.initDone v.initRst.1 := by
  have hs : (v.sampleRst p).2.inst.cfg.rstPin = some p := by simpa [View.sampleRst, View.pinRead, View.pinMode] using h
  rw [runInit_goto v 4 .rstMode ((v.pinMode p .input).gotoInit .rstRead)
      (by rw [View.initStep, onRst_some (v.gotoInit .rstMode) _ h, gotoInit_pinMode, gotoInit_gotoInit]),
    runInit_goto _ 3 .rstRead (((v.sampleRst p).2.gotoInit .rstRead).afterSample (v.sampleRst p).1)
      (by rw [View.initStep, onRst_some _ _ (p := p) (by simpa [View.pinMode] using h), gotoInit_pinRead]; rfl)]
  simp only [View.initRst, h]
  cases hl : (v.sampleRst p).1 with
  | low => rw [View.afterSample, gotoInit_gotoInit, runInit_exit _ p hs]
  | high => rw [View.afterSample, gotoInit_initDone, runInit_initDone]

/-- INIT's events one after another are its pseudocode. -/
theorem runInit_seq : (v.gotoInit .csMode).runInit 7 = v.initSeq := by
  have hc : v.initCs.inst.cfg.rstPin = v.inst.cfg.rstPin := by simp [View.initCs, View.pinWrite, View.pinMode]
  have hw : ((v.pinMode v.inst.cfg.csPin .output).gotoInit .csHigh).pinWrite
      ((v.pinMode v.inst.cfg.csPin .output).gotoInit .csHigh).inst.cfg.csPin .high = v.initCs.gotoInit .csHigh := by
    rw [gotoInit_pinWrite, gotoInit_inst_cfg]
    simp [View.initCs, View.pinMode]
  rw [runInit_goto v 6 .csMode ((v.pinMode v.inst.cfg.csPin .output).gotoInit .csHigh)
    (by rw [View.initStep, gotoInit_pinMode, gotoInit_gotoInit]; rfl), View.initSeq]
  cases h : v.inst.cfg.rstPin with
  | none =>
    rw [runInit_goto _ 5 .csHigh (v.initCs.initDone false)
      (by rw [View.initStep, hw, onRst_none (v.initCs.gotoInit .csHigh) _ (hc.trans h), gotoInit_initDone]), runInit_initDone]
    simp only [View.initRst, hc, h]
  | some p =>
    rw [runInit_goto _ 5 .csHigh (v.initCs.gotoInit .rstMode)
      (by rw [View.initStep, hw, onRst_some (v.initCs.gotoInit .csHigh) _ (hc.trans h), gotoInit_gotoInit]), runInit_rst _ p (hc.trans h)]

/-- INIT from its entry to its return. -/
theorem runInit_beginInit : (v.beginInit.runInit InitStep.csMode.left).ret = v.beginInit.initSeq.ret := by
  rw [← runInit_seq v.beginInit]
  rfl

end Sys2Proof.Machine
end

