-- ==== Sys2Proof/Laws/Memory.lean ====
section
/-! SUPPORT. The caller's buffers: a read after a write, and the canonical form kept by every operation on them. -/

namespace Sys2Proof.Machine

theorem cellRead_write_same (i : Nat) (v : Byte) (l : List (Nat × Byte)) : cellRead i (cellWrite i v l) = some v := by
  induction l with
  | nil => simp [cellWrite, cellRead]
  | cons c rest ih =>
    obtain ⟨a, w⟩ := c
    by_cases h1 : i < a
    · simp [cellWrite, h1, cellRead]
    · by_cases h2 : i = a
      · simp [cellWrite, h2, cellRead]
      · simp [cellWrite, h1, h2, cellRead, Ne.symm h2, ih]

theorem cellRead_write_other (i j : Nat) (v : Byte) (l : List (Nat × Byte)) (h : j ≠ i) :
    cellRead j (cellWrite i v l) = cellRead j l := by
  induction l with
  | nil => simp [cellWrite, cellRead, Ne.symm h]
  | cons c rest ih =>
    obtain ⟨a, w⟩ := c
    by_cases h1 : i < a
    · simp [cellWrite, h1, cellRead, Ne.symm h]
    · by_cases h2 : i = a
      · subst h2
        simp [cellWrite, cellRead, Ne.symm h]
      · simp [cellWrite, h1, h2, cellRead, ih]

theorem cellsWf_write (lo len i : Nat) (v : Byte) (l : List (Nat × Byte)) (hlo : lo ≤ i) (hi : i < len)
    (hw : cellsWf lo len l = true) : cellsWf lo len (cellWrite i v l) = true := by
  induction l generalizing lo with
  | nil => simp [cellWrite, cellsWf, hlo, hi]
  | cons c rest ih =>
    obtain ⟨a, w⟩ := c
    simp only [cellsWf, Bool.and_eq_true, decide_eq_true_eq] at hw
    by_cases h1 : i < a
    · simp only [cellWrite, h1, if_true, cellsWf, Bool.and_eq_true, decide_eq_true_eq]
      exact ⟨⟨hlo, hi⟩, ⟨by omega, hw.1.2⟩, hw.2⟩
    · by_cases h2 : i = a
      · subst h2
        simp only [cellWrite, lt_irrefl, if_true, if_false, cellsWf, Bool.and_eq_true, decide_eq_true_eq]
        exact ⟨⟨hlo, hi⟩, hw.2⟩
      · simp only [cellWrite, h1, h2, if_false, cellsWf, Bool.and_eq_true, decide_eq_true_eq]
        exact ⟨hw.1, ih (a + 1) (by omega) hw.2⟩

theorem Buffer.write_wf (b : Buffer) (i : Nat) (v : Byte) (h : b.wf = true) : (b.write i v).wf = true := by
  unfold Buffer.write
  split
  · exact cellsWf_write 0 b.len i v b.cells (Nat.zero_le _) ‹_› h
  · exact h

@[simp] theorem Buffer.write_len (b : Buffer) (i : Nat) (v : Byte) : (b.write i v).len = b.len := by
  unfold Buffer.write; split <;> rfl

theorem Buffer.read_write_same (b : Buffer) (i : Nat) (v : Byte) (h : i < b.len) : (b.write i v).read i = some v := by
  simp [Buffer.write, h, Buffer.read, cellRead_write_same]

theorem Buffer.read_write_other (b : Buffer) (i j : Nat) (v : Byte) (h : j ≠ i) : (b.write i v).read j = b.read j := by
  unfold Buffer.write
  split
  · exact cellRead_write_other i j v b.cells h
  · rfl

theorem Buffer.empty_wf : Buffer.empty.wf = true := rfl

/-! ### A buffer written out slot by slot -/

theorem cellsWf_cellsOf (i len : Nat) (slots : List (Option Byte)) (h : i + slots.length ≤ len) (lo : Nat) (hlo : lo ≤ i) :
    cellsWf lo len (cellsOf i slots) = true := by
  induction slots generalizing i lo with
  | nil => rfl
  | cons x rest ih =>
    simp only [List.length_cons] at h
    cases x with
    | none => exact ih (i + 1) (by omega) lo (by omega)
    | some v =>
      simp only [cellsOf, cellsWf, Bool.and_eq_true, decide_eq_true_eq]
      exact ⟨⟨hlo, by omega⟩, ih (i + 1) (by omega) (i + 1) (le_refl _)⟩

theorem Buffer.ofSlots_wf (slots : List (Option Byte)) : (Buffer.ofSlots slots).wf = true :=
  cellsWf_cellsOf 0 slots.length slots (by omega) 0 (le_refl _)

theorem cellRead_cellsOf (i j : Nat) (slots : List (Option Byte)) :
    cellRead j (cellsOf i slots) = if i ≤ j then (slots[j - i]?).join else none := by
  induction slots generalizing i with
  | nil => simp [cellsOf, cellRead]
  | cons x rest ih =>
    have key : i ≤ j → i ≠ j → (x :: rest)[j - i]? = rest[j - (i + 1)]? := fun h1 h2 => by
      rw [show j - i = (j - (i + 1)) + 1 by omega, List.getElem?_cons_succ]
    by_cases hij : i = j
    · subst hij
      cases x with
      | none => simp [cellsOf, ih]
      | some v => simp [cellsOf, cellRead]
    · by_cases hle : i ≤ j
      · have hle' : i + 1 ≤ j := by omega
        cases x with
        | none => simp only [cellsOf, ih, hle, hle', if_true, key hle hij]
        | some v => simp only [cellsOf, cellRead, if_neg hij, ih, hle, hle', if_true, key hle hij]
      · have hle' : ¬ i + 1 ≤ j := by omega
        cases x with
        | none => simp only [cellsOf, ih, hle, hle', if_false]
        | some v => simp only [cellsOf, cellRead, if_neg hij, ih, hle, hle', if_false]

theorem Buffer.ofSlots_read (slots : List (Option Byte)) (i : Nat) (h : i < slots.length) :
    slots[i]? = some ((Buffer.ofSlots slots).read i) := by
  simp [Buffer.ofSlots, Buffer.read, cellRead_cellsOf, List.getElem?_eq_getElem h]

/-! ### The buffers by name -/

theorem bufAt_modify_same (bufs : List Buffer) (b : Nat) (g : Buffer → Buffer) (h : b < bufs.length) :
    bufAt (bufs.modify b g) b = g (bufAt bufs b) := by
  simp [bufAt, List.getD_eq_getElem?_getD, List.getElem?_eq_getElem h]

theorem bufAt_modify_other (bufs : List Buffer) (b c : Nat) (g : Buffer → Buffer) (h : c ≠ b) :
    bufAt (bufs.modify b g) c = bufAt bufs c := by
  simp [bufAt, List.getD_eq_getElem?_getD, Ne.symm h]

theorem bufAt_len_lt (bufs : List Buffer) (b i : Nat) (h : i < (bufAt bufs b).len) : b < bufs.length := by
  by_contra hb
  simp [bufAt, List.getD_eq_getElem?_getD, List.getElem?_eq_none (Nat.le_of_not_lt hb), Buffer.empty] at h

theorem bufAt_placeBuf_same (bufs : List Buffer) (b : Nat) (x : Buffer) : bufAt (placeBuf bufs b x) b = x := by
  induction b generalizing bufs with
  | zero => cases bufs <;> simp [placeBuf, bufAt]
  | succ n ih => cases bufs <;> simpa [placeBuf, bufAt] using ih _

theorem bufAt_placeBuf_other (bufs : List Buffer) (b c : Nat) (x : Buffer) (h : c ≠ b) :
    bufAt (placeBuf bufs b x) c = bufAt bufs c := by
  induction b generalizing bufs c with
  | zero =>
    cases c with
    | zero => exact absurd rfl h
    | succ m => cases bufs <;> simp [placeBuf, bufAt]
  | succ n ih =>
    cases c with
    | zero => cases bufs <;> simp [placeBuf, bufAt]
    | succ m =>
      cases bufs with
      | nil => simpa [placeBuf, bufAt] using ih [] m (by omega)
      | cons y l => simpa [placeBuf, bufAt] using ih l m (by omega)

theorem bufsWf_iff (bufs : List Buffer) : bufsWf bufs = true ↔ ∀ b ∈ bufs, b.wf = true := by simp [bufsWf]

theorem bufsWf_modify (bufs : List Buffer) (b i : Nat) (v : Byte) (h : bufsWf bufs = true) :
    bufsWf (bufs.modify b fun x => x.write i v) = true := by
  induction bufs generalizing b with
  | nil => cases b <;> exact h
  | cons y l ih =>
    simp only [bufsWf, List.all_cons, Bool.and_eq_true] at h
    cases b with
    | zero => simpa [bufsWf, Buffer.write_wf y i v h.1] using h.2
    | succ n => simpa [bufsWf, h.1] using ih n h.2

theorem bufsWf_placeBuf (bufs : List Buffer) (b : Nat) (x : Buffer) (hx : x.wf = true) (h : bufsWf bufs = true) :
    bufsWf (placeBuf bufs b x) = true := by
  induction b generalizing bufs with
  | zero => cases bufs <;> simp_all [placeBuf, bufsWf]
  | succ n ih =>
    cases bufs with
    | nil => simpa [placeBuf, bufsWf, Buffer.empty_wf] using ih [] rfl
    | cons y l =>
      simp only [bufsWf, List.all_cons, Bool.and_eq_true] at h
      simpa [placeBuf, bufsWf, h.1] using ih l h.2

/-! ### One slot of one buffer, after a write -/

theorem bufAt_write_len (bufs : List Buffer) (b c i : Nat) (v : Byte) :
    (bufAt (bufs.modify b fun x => x.write i v) c).len = (bufAt bufs c).len := by
  by_cases h : c = b
  · subst h
    by_cases hb : c < bufs.length
    · rw [bufAt_modify_same _ _ _ hb, Buffer.write_len]
    · simp [bufAt, List.getD_eq_getElem?_getD, List.getElem?_eq_none (Nat.le_of_not_lt hb)]
  · rw [bufAt_modify_other _ _ _ _ h]

theorem bufAt_write_same (bufs : List Buffer) (b i : Nat) (v : Byte) (h : i < (bufAt bufs b).len) :
    (bufAt (bufs.modify b fun x => x.write i v) b).read i = some v := by
  rw [bufAt_modify_same _ _ _ (bufAt_len_lt _ _ _ h), Buffer.read_write_same _ _ _ h]

theorem bufAt_write_other (bufs : List Buffer) (b c i j : Nat) (v : Byte) (h : c ≠ b ∨ j ≠ i) :
    (bufAt (bufs.modify b fun x => x.write i v) c).read j = (bufAt bufs c).read j := by
  by_cases hc : c = b
  · subst hc
    by_cases hb : c < bufs.length
    · rw [bufAt_modify_same _ _ _ hb, Buffer.read_write_other _ _ _ _ (h.resolve_left fun hn => hn rfl)]
    · simp [bufAt, List.getD_eq_getElem?_getD, List.getElem?_eq_none (Nat.le_of_not_lt hb)]
  · rw [bufAt_modify_other _ _ _ _ hc]

end Sys2Proof.Machine
end

