-- ==== Sys2Proof/Laws/Sequencer.lean ====
section
/-! SUPPORT. What one transfer does, what a run of transfers does, and what the bracket around it leaves. -/

namespace Sys2Proof.Machine

variable (v : View)

/-! ### Draws and transfers -/

theorem drawByte_fst : v.drawByte.1 = rxNth v.inst.rxIn v.free 0 := by
  unfold View.drawByte rxNth
  split <;> simp [*]

theorem drawByte_rxIn : v.drawByte.2.inst.rxIn = v.inst.rxIn.drop 1 := by
  unfold View.drawByte
  split <;> simp [*]

/-- After a transfer the BUS's answers are those that were to come, one place on. -/
theorem rxNth_after (j : Nat) :
    rxNth v.drawByte.2.inst.rxIn v.drawByte.2.free j = rxNth v.inst.rxIn v.free (j + 1) := by
  unfold View.drawByte
  split
  · rename_i b bs h
    simp [rxNth, h]
  · rename_i h
    simp [rxNth, h, Nat.add_assoc, Nat.add_comm 1 j]

@[simp] theorem drawByte_me : v.drawByte.2.me = v.me := by unfold View.drawByte; split <;> rfl
@[simp] theorem drawByte_owner : v.drawByte.2.owner = v.owner := by unfold View.drawByte; split <;> rfl
@[simp] theorem drawByte_bufs : v.drawByte.2.bufs = v.bufs := by unfold View.drawByte; split <;> rfl
@[simp] theorem drawByte_countMax : v.drawByte.2.countMax = v.countMax := by unfold View.drawByte; split <;> rfl
@[simp] theorem drawByte_lent : v.drawByte.2.lent = v.lent := by unfold View.drawByte; split <;> rfl
@[simp] theorem drawByte_cfg : v.drawByte.2.inst.cfg = v.inst.cfg := by unfold View.drawByte; split <;> rfl
@[simp] theorem drawByte_cs : v.drawByte.2.inst.cs = v.inst.cs := by unfold View.drawByte; split <;> rfl
@[simp] theorem drawByte_rst : v.drawByte.2.inst.rst = v.inst.rst := by unfold View.drawByte; split <;> rfl
@[simp] theorem drawByte_fault : v.drawByte.2.inst.fault = v.inst.fault := by unfold View.drawByte; split <;> rfl
@[simp] theorem drawByte_trace : v.drawByte.2.inst.trace = v.inst.trace := by unfold View.drawByte; split <;> rfl
@[simp] theorem drawByte_phase : v.drawByte.2.inst.phase = v.inst.phase := by unfold View.drawByte; split <;> rfl
@[simp] theorem drawByte_k : v.drawByte.2.inst.k = v.inst.k := by unfold View.drawByte; split <;> rfl
@[simp] theorem drawByte_initAt : v.drawByte.2.inst.initAt = v.inst.initAt := by unfold View.drawByte; split <;> rfl
@[simp] theorem drawByte_dp : v.drawByte.2.inst.dp = v.inst.dp := by unfold View.drawByte; split <;> rfl
@[simp] theorem drawByte_results : v.drawByte.2.inst.results = v.inst.results := by unfold View.drawByte; split <;> rfl
@[simp] theorem drawByte_inbox : v.drawByte.2.inst.inbox = v.inst.inbox := by unfold View.drawByte; split <;> rfl
@[simp] theorem drawByte_lvlIn : v.drawByte.2.inst.lvlIn = v.inst.lvlIn := by unfold View.drawByte; split <;> rfl

/-! ### What a transfer keeps -/

/-- The parts of a view no transfer changes. -/
structure Kept (v w : View) : Prop where
  me : w.me = v.me
  owner : w.owner = v.owner
  countMax : w.countMax = v.countMax
  lent : w.lent = v.lent
  cfg : w.inst.cfg = v.inst.cfg
  cs : w.inst.cs = v.inst.cs
  rst : w.inst.rst = v.inst.rst
  fault : w.inst.fault = v.inst.fault
  initAt : w.inst.initAt = v.inst.initAt
  results : w.inst.results = v.inst.results
  inbox : w.inst.inbox = v.inst.inbox
  lvlIn : w.inst.lvlIn = v.inst.lvlIn
  plan : w.inst.dp.plan = v.inst.dp.plan
  opr : w.inst.dp.opr = v.inst.dp.opr
  buf : w.inst.dp.buf = v.inst.dp.buf
  old : w.inst.dp.old = v.inst.dp.old
  mask : w.inst.dp.mask = v.inst.dp.mask
  ra : w.inst.dp.ra = v.inst.dp.ra

theorem Kept.refl : Kept v v := by constructor <;> rfl

theorem Kept.trans {u v w : View} (h : Kept u v) (g : Kept v w) : Kept u w :=
  ⟨g.me.trans h.me, g.owner.trans h.owner, g.countMax.trans h.countMax, g.lent.trans h.lent, g.cfg.trans h.cfg,
    g.cs.trans h.cs, g.rst.trans h.rst, g.fault.trans h.fault, g.initAt.trans h.initAt, g.results.trans h.results, g.inbox.trans h.inbox,
    g.lvlIn.trans h.lvlIn, g.plan.trans h.plan, g.opr.trans h.opr, g.buf.trans h.buf, g.old.trans h.old,
    g.mask.trans h.mask, g.ra.trans h.ra⟩

theorem beforeXfer_kept (tx : Byte) : Kept v (v.beforeXfer tx) := by
  unfold View.beforeXfer
  split <;> constructor <;> rfl

theorem xfer_kept (tx : Byte) : Kept v (v.xfer tx).2 := by
  constructor <;> simp [View.xfer]

theorem store_kept (rx : Byte) : Kept v (v.store rx) := by
  unfold View.store
  split <;> constructor <;> rfl

theorem afterXfer_kept (rx : Byte) : Kept v (v.afterXfer rx) := by
  unfold View.afterXfer
  split
  · split <;> constructor <;> rfl
  · split
    · exact Kept.refl v
    · have h := store_kept v rx
      exact ⟨h.me, h.owner, h.countMax, h.lent, h.cfg, h.cs, h.rst, h.fault, h.initAt, h.results, h.inbox, h.lvlIn,
        rfl, rfl, rfl, rfl, rfl, rfl⟩
  all_goals exact Kept.refl v

theorem countXfer_kept : Kept v v.countXfer := by constructor <;> rfl

theorem goto_kept (p : Phase) : Kept v (v.goto p) := by constructor <;> rfl

theorem xferStep_kept : Kept v v.xferStep := by
  unfold View.xferStep
  split
  · exact goto_kept v _
  · exact ((beforeXfer_kept v _).trans (xfer_kept _ _)).trans ((afterXfer_kept _ _).trans (countXfer_kept _))

theorem xferMany_kept (n : Nat) : Kept v (v.xferMany n) := by
  induction n generalizing v with
  | zero => exact Kept.refl v
  | succ n ih => exact (xferStep_kept v).trans (ih v.xferStep)

/-! ### One transfer, by place -/

theorem beforeXfer_rxIn (tx : Byte) : (v.beforeXfer tx).inst.rxIn = v.inst.rxIn := by
  unfold View.beforeXfer; split <;> rfl

theorem beforeXfer_free (tx : Byte) : (v.beforeXfer tx).free = v.free := by
  unfold View.beforeXfer; split <;> rfl

theorem beforeXfer_k (tx : Byte) : (v.beforeXfer tx).inst.k = v.inst.k := by
  unfold View.beforeXfer; split <;> rfl

theorem beforeXfer_bufs (tx : Byte) : (v.beforeXfer tx).bufs = v.bufs := by
  unfold View.beforeXfer; split <;> rfl

theorem afterXfer_rxIn (rx : Byte) : (v.afterXfer rx).inst.rxIn = v.inst.rxIn := by
  unfold View.afterXfer View.store; split <;> (try split) <;> (try split) <;> rfl

theorem afterXfer_free (rx : Byte) : (v.afterXfer rx).free = v.free := by
  unfold View.afterXfer View.store; split <;> (try split) <;> (try split) <;> rfl

theorem afterXfer_k (rx : Byte) : (v.afterXfer rx).inst.k = v.inst.k := by
  unfold View.afterXfer View.store; split <;> (try split) <;> (try split) <;> rfl

theorem xferStep_k (h : v.inst.k < v.inst.dp.plan.length) : v.xferStep.inst.k = v.inst.k + 1 := by
  simp [View.xferStep, List.getElem?_eq_getElem h, afterXfer_k, View.xfer, beforeXfer_k]

theorem xferStep_phase (h : v.inst.k < v.inst.dp.plan.length) :
    v.xferStep.inst.phase = if v.inst.k + 1 < v.inst.dp.plan.length then .xfer else .desel := by
  simp only [View.xferStep, List.getElem?_eq_getElem h, countXfer_inst_phase, afterXfer_k, (afterXfer_kept _ _).plan,
    (xfer_kept _ _).plan, (beforeXfer_kept _ _).plan]
  simp [View.xfer, beforeXfer_k]

theorem xferStep_phase_of_le (h : v.inst.dp.plan.length ≤ v.inst.k) : v.xferStep = v.goto .desel := by
  simp [View.xferStep, List.getElem?_eq_none h]

theorem xferStep_rx (h : v.inst.k < v.inst.dp.plan.length) (j : Nat) :
    rxNth v.xferStep.inst.rxIn v.xferStep.free j = rxNth v.inst.rxIn v.free (j + 1) := by
  rw [← beforeXfer_rxIn v v.inst.dp.plan[v.inst.k], ← beforeXfer_free v v.inst.dp.plan[v.inst.k], ← rxNth_after]
  simp [View.xferStep, List.getElem?_eq_getElem h, afterXfer_rxIn, afterXfer_free, View.xfer]

theorem xferStep_rxIn (h : v.inst.k < v.inst.dp.plan.length) : v.xferStep.inst.rxIn = v.inst.rxIn.drop 1 := by
  simp [View.xferStep, List.getElem?_eq_getElem h, afterXfer_rxIn, View.xfer, drawByte_rxIn, beforeXfer_rxIn]

/-- A transfer of anything but a READN touches no buffer. -/
theorem xferStep_bufs (h : v.inst.dp.opr ≠ .readn) : v.xferStep.bufs = v.bufs := by
  unfold View.xferStep
  split
  · rfl
  · rename_i tx _
    have ho : ((v.beforeXfer tx).xfer tx).2.inst.dp.opr ≠ .readn := by
      rw [(xfer_kept _ _).opr, (beforeXfer_kept _ _).opr]; exact h
    have : (((v.beforeXfer tx).xfer tx).2.afterXfer ((v.beforeXfer tx).xfer tx).1).bufs =
        ((v.beforeXfer tx).xfer tx).2.bufs := by
      unfold View.afterXfer
      split
      · split <;> rfl
      · exact absurd ‹_› ho
      all_goals rfl
    rw [countXfer_bufs, this]
    simp [View.xfer, beforeXfer_bufs]

theorem xferMany_bufs (n : Nat) (h : v.inst.dp.opr ≠ .readn) : (v.xferMany n).bufs = v.bufs := by
  induction n generalizing v with
  | zero => rfl
  | succ n ih =>
    rw [View.xferMany, ih _ (by rw [(xferStep_kept v).opr]; exact h), xferStep_bufs v h]

/-- What one transfer adds to the history and to the datapath, with no buffer read before it. -/
theorem xferStep_plain (tx : Byte) (h : v.inst.dp.plan[v.inst.k]? = some tx)
    (hb : ¬(v.inst.dp.opr = .writen ∧ v.inst.k ≠ 0)) (hs : ¬(v.inst.dp.opr = .readn ∧ v.inst.k ≠ 0)) :
    v.xferStep.inst.trace = v.inst.trace ++ [.xfer tx (rxNth v.inst.rxIn v.free 0)] ∧
    v.xferStep.bufs = v.bufs ∧
    v.xferStep.inst.dp =
      { v.inst.dp with
        rxl := rxNth v.inst.rxIn v.free 0,
        res := if v.inst.dp.opr = .read1 ∧ v.inst.k = 1 then .byte (rxNth v.inst.rxIn v.free 0) else v.inst.dp.res } := by
  have hbf : v.beforeXfer tx = v := by unfold View.beforeXfer; rw [if_neg hb]
  simp only [View.xferStep, h, hbf]
  cases ho : v.inst.dp.opr
  all_goals simp only [ho, true_and, not_not, false_and, if_false, reduceCtorEq] at hs ⊢
  · simp [View.afterXfer, View.xfer, ho, drawByte_fst]
  · simp [View.afterXfer, View.xfer, ho, drawByte_fst]
  · by_cases hk : v.inst.k = 1 <;> simp [View.afterXfer, View.xfer, ho, hk, drawByte_fst]
  · simp [View.afterXfer, View.xfer, ho, hs, drawByte_fst]
  · simp [View.afterXfer, View.xfer, ho, drawByte_fst]

/-- A WRITEN's data transfer: the slot is read, then sent. -/
theorem xferStep_data (tx : Byte) (h : v.inst.dp.plan[v.inst.k]? = some tx)
    (ho : v.inst.dp.opr = .writen) (hk : v.inst.k ≠ 0) :
    v.xferStep.inst.trace =
      v.inst.trace ++ [.bufRd v.inst.dp.idx tx, .xfer tx (rxNth v.inst.rxIn v.free 0)] ∧
    v.xferStep.inst.dp = { v.inst.dp with idx := v.inst.dp.idx + 1, rxl := rxNth v.inst.rxIn v.free 0 } := by
  simp [View.xferStep, h, View.beforeXfer, ho, hk, View.xfer, View.afterXfer, drawByte_fst, View.memRead]

/-- A READN's store: its events, the slot it writes, and no datapath register. -/
theorem store_spec (rx : Byte) :
    (v.store rx).inst.trace = v.inst.trace ++
      ((if v.inst.dp.idx = 0 ∧ v.inst.dp.ra ≠ 0 then [.bufRd 0 v.inst.dp.old] else []) ++
        [.bufWr v.inst.dp.idx (v.inst.storeByte rx)]) ∧
    (v.store rx).bufs = v.bufs.modify v.inst.dp.buf (fun b => b.write v.inst.dp.idx (v.inst.storeByte rx)) ∧
    (v.store rx).inst.dp = v.inst.dp := by
  by_cases hm : v.inst.dp.idx = 0 ∧ v.inst.dp.ra ≠ 0
  · rw [View.store, if_pos hm, Framer.storeByte, if_pos hm, if_pos hm, hm.1]
    exact ⟨by simp [View.memWrite, View.memRead, rxMerge], rfl, rfl⟩
  · rw [View.store, if_neg hm, Framer.storeByte, if_neg hm, if_neg hm]
    exact ⟨rfl, rfl, rfl⟩

/-- A READN's data transfer: the byte is stored. -/
theorem xferStep_store (tx : Byte) (h : v.inst.dp.plan[v.inst.k]? = some tx)
    (ho : v.inst.dp.opr = .readn) (hk : v.inst.k ≠ 0) :
    v.xferStep.inst.trace =
      v.inst.trace ++ .xfer tx (rxNth v.inst.rxIn v.free 0) :: v.inst.storeEvents (rxNth v.inst.rxIn v.free 0) ∧
    v.xferStep.bufs = v.bufs.modify v.inst.dp.buf (fun b =>
      b.write v.inst.dp.idx (v.inst.storeByte (rxNth v.inst.rxIn v.free 0))) ∧
    v.xferStep.inst.dp = { v.inst.dp with idx := v.inst.dp.idx + 1, rxl := rxNth v.inst.rxIn v.free 0 } := by
  have hbf : v.beforeXfer tx = v := by simp [View.beforeXfer, ho]
  have hst : v.inst.stores = true := by simp [Framer.stores, ho, hk]
  obtain ⟨h1, h2, h3⟩ := store_spec (v.xfer tx).2 (v.xfer tx).1
  have hd : (v.xfer tx).2.inst.dp = { v.inst.dp with rxl := rxNth v.inst.rxIn v.free 0 } := by
    simp [View.xfer, drawByte_fst]
  have hrx : (v.xfer tx).1 = rxNth v.inst.rxIn v.free 0 := drawByte_fst v
  have hsb : (v.xfer tx).2.inst.storeByte (rxNth v.inst.rxIn v.free 0) =
      v.inst.storeByte (rxNth v.inst.rxIn v.free 0) := by simp only [Framer.storeByte, hd]
  have hx : v.xferStep = (((v.xfer tx).2.store (v.xfer tx).1).setDp
      { (v.xfer tx).2.inst.dp with idx := (v.xfer tx).2.inst.dp.idx + 1 }).countXfer := by
    simp only [View.xferStep, h, hbf, View.afterXfer]
    simp [ho, hk, View.xfer]
  rw [hrx] at h1 h2 hx
  rw [hsb] at h1 h2
  rw [hx]
  refine ⟨?_, ?_, ?_⟩
  · rw [countXfer_inst_trace, setDp_inst_trace, h1, hd, Framer.storeEvents, if_pos hst]
    simp [View.xfer, drawByte_fst]
  · rw [countXfer_bufs, setDp_bufs, h2, hd]
    simp [View.xfer]
  · rw [countXfer_inst_dp, setDp_inst_dp, hd]

/-! ### Runs of transfers -/

/-- A transfer only adds to the history. -/
theorem xferStep_prefix (v : View) : v.inst.trace <+: v.xferStep.inst.trace := by
  unfold View.xferStep View.beforeXfer View.afterXfer View.store
  split
  · simp
  · split <;> split <;> (try split) <;> (try split) <;> simp [View.xfer, View.memRead, View.memWrite, List.append_assoc]

theorem xferMany_succ (n : Nat) : v.xferMany (n + 1) = v.xferStep.xferMany n := rfl

/-- A WRITEN's loop from slot i on: K is i + 1, and rho j is the byte received at transfer j of the frame. -/
theorem xferMany_writen (ds : List Byte) (i : Nat) (rho : Nat → Byte) (ho : v.inst.dp.opr = .writen)
    (hk : v.inst.k = i + 1) (hi : v.inst.dp.idx = i) (hp : v.inst.dp.plan.drop (i + 1) = ds)
    (hr : ∀ j, rxNth v.inst.rxIn v.free j = rho (i + 1 + j)) :
    (v.xferMany ds.length).inst.trace = v.inst.trace ++ writeLoop rho i ds ∧
    (v.xferMany ds.length).inst.rxIn = v.inst.rxIn.drop ds.length ∧
    (v.xferMany ds.length).inst.dp.res = v.inst.dp.res := by
  induction ds generalizing v i with
  | nil => simp [View.xferMany, writeLoop]
  | cons d ds ih =>
    have hlt : i + 1 < v.inst.dp.plan.length := by
      by_contra hc
      rw [List.drop_eq_nil_of_le (by omega)] at hp
      cases hp
    have hd : v.inst.dp.plan[v.inst.k]? = some d := by
      rw [hk, ← List.head?_drop, hp]; rfl
    have hklt : v.inst.k < v.inst.dp.plan.length := by omega
    obtain ⟨ht, hdp⟩ := xferStep_data v d hd ho (by omega)
    obtain ⟨h1, h2, h3⟩ := ih v.xferStep (i + 1) (by rw [(xferStep_kept v).opr]; exact ho)
      (by rw [xferStep_k v hklt, hk]) (by rw [hdp, hi])
      (by rw [(xferStep_kept v).plan, ← List.drop_drop, hp]; rfl)
      (fun j => by rw [xferStep_rx v hklt, hr]; congr 1; omega)
    rw [List.length_cons, xferMany_succ]
    refine ⟨?_, ?_, ?_⟩
    · rw [h1, ht, hi, hr 0]
      simp [writeLoop]
    · rw [h2, xferStep_rxIn v hklt, List.drop_drop, Nat.add_comm]
    · rw [h3, hdp]

/-- A READN's loop from slot i on, m slots to go of n: K is i + 1, and rho j is the byte received at transfer j. -/
theorem xferMany_readn (m i n : Nat) (r : RegAddr) (rho : Nat → Byte) (hn : n = i + m) (ho : v.inst.dp.opr = .readn)
    (hk : v.inst.k = i + 1) (hi : v.inst.dp.idx = i) (hmask : v.inst.dp.mask = rxMask v.inst.dp.ra)
    (hp : v.inst.dp.plan = List.replicate n (addrRead r) ++ [dummyByte])
    (hr : ∀ j, rxNth v.inst.rxIn v.free j = rho (i + 1 + j)) (hl : n ≤ (bufAt v.bufs v.inst.dp.buf).len) :
    (v.xferMany m).inst.trace =
      v.inst.trace ++ (List.range' i m).flatMap (readIteration r n v.inst.dp.ra v.inst.dp.old rho) ∧
    (v.xferMany m).inst.rxIn = v.inst.rxIn.drop m ∧
    (v.xferMany m).inst.dp.res = v.inst.dp.res ∧
    (∀ j, i ≤ j → j < n →
      (bufAt (v.xferMany m).bufs v.inst.dp.buf).read j = some (readValue v.inst.dp.ra v.inst.dp.old rho j)) ∧
    (∀ c j, (c ≠ v.inst.dp.buf ∨ j < i ∨ n ≤ j) → (bufAt (v.xferMany m).bufs c).read j = (bufAt v.bufs c).read j) ∧
    (∀ c, (bufAt (v.xferMany m).bufs c).len = (bufAt v.bufs c).len) := by
  induction m generalizing v i with
  | zero =>
    refine ⟨by simp [View.xferMany], rfl, rfl, fun j h1 h2 => by omega, fun _ _ _ => rfl, fun _ => rfl⟩
  | succ m ih =>
    have hlen : v.inst.dp.plan.length = n + 1 := by simp [hp]
    have hklt : v.inst.k < v.inst.dp.plan.length := by omega
    have htx : v.inst.dp.plan[v.inst.k]? = some (if i < n - 1 then addrRead r else 0x00#8) := by
      rw [hp, hk]
      by_cases hlast : i < n - 1
      · rw [if_pos hlast, List.getElem?_append_left (by simp; omega), List.getElem?_replicate, if_pos (by omega)]
      · have : i + 1 = n := by omega
        rw [if_neg hlast, List.getElem?_append_right (by simp; omega)]
        simp [this, dummyByte]
    obtain ⟨ht, hb, hdp⟩ := xferStep_store v _ htx ho (by omega)
    have hval : v.inst.storeByte (rxNth v.inst.rxIn v.free 0) = readValue v.inst.dp.ra v.inst.dp.old rho i := by
      have h0 : rxNth v.inst.rxIn v.free 0 = rho (i + 1) := hr 0
      rw [h0, Framer.storeByte, readValue, hi, hmask]
      by_cases hc : i = 0 ∧ v.inst.dp.ra ≠ 0
      · rw [if_pos hc, if_pos hc, hc.1]
      · rw [if_neg hc, if_neg hc]
    have hkept := xferStep_kept v
    have hra : v.xferStep.inst.dp.ra = v.inst.dp.ra := hkept.ra
    have hold : v.xferStep.inst.dp.old = v.inst.dp.old := hkept.old
    have hbuf : v.xferStep.inst.dp.buf = v.inst.dp.buf := hkept.buf
    rw [hval, hi] at hb
    obtain ⟨h1, h2, h3, h4, h5, h6⟩ := ih v.xferStep (i + 1) (by omega) (by rw [hkept.opr]; exact ho)
      (by rw [xferStep_k v hklt, hk]) (by rw [hdp, hi]) (by rw [hkept.mask, hra]; exact hmask)
      (by rw [hkept.plan]; exact hp)
      (fun j => by rw [xferStep_rx v hklt, hr]; congr 1; omega)
      (by rw [hbuf, hb, bufAt_write_len]; exact hl)
    rw [hra, hold] at h1 h4
    rw [hbuf] at h4 h5
    rw [xferMany_succ]
    refine ⟨?_, ?_, ?_, ?_, ?_, ?_⟩
    · rw [h1, ht, List.range'_succ, List.flatMap_cons, ← List.append_assoc]
      congr 2
      have hst : v.inst.stores = true := by simp [Framer.stores, ho, hk]
      have h0 : rxNth v.inst.rxIn v.free 0 = rho (i + 1) := hr 0
      rw [Framer.storeEvents, if_pos hst, hval, hi, h0, readIteration]
      rfl
    · rw [h2, xferStep_rxIn v hklt, List.drop_drop, Nat.add_comm]
    · rw [h3, hdp]
    · intro j hj hjn
      by_cases hji : j = i
      · subst hji
        rw [h5 _ _ (Or.inr (Or.inl (by omega))), hb, bufAt_write_same _ _ _ _ (by omega)]
      · exact h4 j (by omega) hjn
    · intro c j hc
      rw [h5 c j (by omega), hb, bufAt_write_other]
      omega
    · intro c
      rw [h6, hb, bufAt_write_len]

/-! ### One event at a time, or to the return -/

/-- Deasserting chip-select does not depend on the phase it is done in. -/
theorem deselect_goto (p : Phase) : (v.goto p).deselect = v.deselect := by
  simp only [View.deselect, View.csWrite, View.setLvl, View.goto, View.emit, Framer.modPin]
  simp

/-- One event of INIT does not change what it comes to. -/
theorem finishInit_advance (hp : v.inst.phase = .idle) : v.advanceInit.finish = v.finishInit := by
  cases h : v.inst.initAt with
  | none =>
    have e : v.advanceInit = v := by simp only [View.advanceInit, h]
    rw [e]
    simp only [View.finish, hp]
  | some st =>
    have e : v.advanceInit = v.initStep st := by simp only [View.advanceInit, h]
    have hr : v.finishInit = ((v.initStep st).runInit (st.left - 1)).ret := by
      have hl : st.left = (st.left - 1) + 1 := by cases st <;> rfl
      simp only [View.finishInit, h]
      rw [hl, View.runInit, e, Nat.add_sub_cancel]
    rw [e, hr]
    rcases (initStep_moved v st).goes with ⟨st', g1, g2, _, g4⟩ | ⟨g1, g2⟩
    · have hl : st.left - 1 = st'.left := by omega
      simp only [View.finish, g4, hp, View.finishInit, g1, hl]
    · rw [runInit_rest _ _ g1]
      simp only [View.finish, g2]

/-- Carrying an operation one event on does not change what it comes to. -/
theorem finish_advance : v.advance.finish = v.finish := by
  have hacq : v.inst.phase = .acq → v.advance.finish = v.finish := by
    intro h
    by_cases ho : v.owner = none
    · simp only [View.advance, View.finish, h, View.acquire, ho, if_true, goto_inst_phase]
    · simp only [View.advance, h, View.acquire, if_neg ho]
  have hxfer : v.inst.phase = .xfer → v.advance.finish = v.finish := by
    intro h
    have hf : v.finish = v.finishXfer := by simp only [View.finish, h]
    have ha : v.advance = v.xferStep := by simp only [View.advance, h]
    rw [hf, ha]
    by_cases hk : v.inst.k < v.inst.dp.plan.length
    · have hleft : v.xferLeft = v.xferStep.xferLeft + 1 := by
        simp only [View.xferLeft, (xferStep_kept v).plan, xferStep_k v hk]
        omega
      have hfx : v.finishXfer = v.xferStep.finishXfer := by
        rw [View.finishXfer, hleft, xferMany_succ, ← View.finishXfer]
      rw [hfx]
      have hp := xferStep_phase v hk
      by_cases hl : v.inst.k + 1 < v.inst.dp.plan.length
      · rw [if_pos hl] at hp
        simp only [View.finish, hp]
      · rw [if_neg hl] at hp
        have h0 : v.xferStep.xferLeft = 0 := by simp only [View.xferLeft] at hleft ⊢; omega
        simp only [View.finish, hp, View.finishXfer, h0, View.xferMany]
    · have h0 : v.xferLeft = 0 := by simp only [View.xferLeft]; omega
      rw [xferStep_phase_of_le v (by omega), View.finishXfer, h0]
      simp only [View.finish, goto_inst_phase, View.finishDesel, deselect_goto, View.xferMany]
  cases h : v.inst.phase
  case acq => exact hacq h
  case xfer => exact hxfer h
  case sel => simp only [View.advance, View.finish, h, View.select, goto_inst_phase, View.finishSel]
  case desel => simp only [View.advance, View.finish, h, View.deselect, goto_inst_phase, View.finishDesel]
  case rel => simp only [View.advance, View.finish, h, View.release, goto_inst_phase, View.finishRel]
  case done => simp only [View.advance, View.finish, h, ret_inst_phase, View.finishInit, ret_inst_initAt]
  case idle =>
    have ha : v.advance = v.advanceInit := by simp only [View.advance, h]
    have hf : v.finish = v.finishInit := by simp only [View.finish, h]
    rw [ha, hf, finishInit_advance v h]
  case faulted => simp only [View.advance, h]

/-- INIT runs from its entry to its return as its pseudocode reads (42_init_sequencer.md R150). -/
theorem finish_beginInit : v.beginInit.finish = v.beginInit.initSeq.ret := runInit_beginInit v

/-- An operation comes to rest after some number of events: at its return, or held at its Begin. -/
theorem finish_eq_iterate : ∃ n, v.finish = View.advance^[n] v := by
  suffices h : ∃ n, (View.advance^[n] v).finish = View.advance^[n] v by
    obtain ⟨n, hn⟩ := h
    refine ⟨n, ?_⟩
    rw [← hn]
    clear hn
    induction n with
    | zero => rfl
    | succ n ih => rw [Function.iterate_succ_apply', finish_advance, ih]
  have step : ∀ w : View, (∃ n, (View.advance^[n] w.advance).finish = View.advance^[n] w.advance) →
      ∃ n, (View.advance^[n] w).finish = View.advance^[n] w := fun w ⟨n, hn⟩ => ⟨n + 1, hn⟩
  have rest : ∀ w : View, w.inst.phase = .idle → w.inst.initAt = none →
      ∃ n, (View.advance^[n] w).finish = View.advance^[n] w :=
    fun w h h' => ⟨0, by simp only [Function.iterate_zero, id, View.finish, View.finishInit, h, h']⟩
  have done : ∀ w : View, w.inst.phase = .done → ∃ n, (View.advance^[n] w).finish = View.advance^[n] w :=
    fun w h => step w (rest _ (by simp only [View.advance, h, ret_inst_phase]) (by simp only [View.advance, h, ret_inst_initAt]))
  have init : ∀ (m : Nat) (w : View) (st : InitStep), w.inst.phase = .idle → w.inst.initAt = some st → st.left = m →
      ∃ n, (View.advance^[n] w).finish = View.advance^[n] w := by
    intro m
    induction m with
    | zero => intro w st _ _ hl; cases st <;> cases hl
    | succ m ih =>
      intro w st h ha hl
      have e : w.advance = w.initStep st := by simp only [View.advance, View.advanceInit, h, ha]
      refine step w ?_
      rw [e]
      rcases (initStep_moved w st).goes with ⟨st', g1, g2, _, g4⟩ | ⟨_, g2⟩
      · exact ih _ st' (g4.trans h) g1 (by omega)
      · exact done _ g2
  have rel : ∀ w : View, w.inst.phase = .rel → ∃ n, (View.advance^[n] w).finish = View.advance^[n] w :=
    fun w h => step w (done _ (by simp only [View.advance, h, View.release, goto_inst_phase]))
  have desel : ∀ w : View, w.inst.phase = .desel → ∃ n, (View.advance^[n] w).finish = View.advance^[n] w :=
    fun w h => step w (rel _ (by simp only [View.advance, h, View.deselect, goto_inst_phase]))
  have xfer : ∀ (m : Nat) (w : View), w.inst.phase = .xfer → w.xferLeft = m →
      ∃ n, (View.advance^[n] w).finish = View.advance^[n] w := by
    intro m
    induction m with
    | zero =>
      intro w h hl
      refine step w (desel _ ?_)
      simp only [View.advance, h]
      rw [xferStep_phase_of_le w (by simp only [View.xferLeft] at hl; omega), goto_inst_phase]
    | succ m ih =>
      intro w h hl
      have hk : w.inst.k < w.inst.dp.plan.length := by simp only [View.xferLeft] at hl; omega
      have ha : w.advance = w.xferStep := by simp only [View.advance, h]
      refine step w ?_
      rw [ha]
      have hp := xferStep_phase w hk
      split at hp
      · exact ih _ hp (by
          simp only [View.xferLeft, (xferStep_kept w).plan, xferStep_k w hk] at hl ⊢
          omega)
      · exact desel _ hp
  have sel : ∀ w : View, w.inst.phase = .sel → ∃ n, (View.advance^[n] w).finish = View.advance^[n] w :=
    fun w h => step w (xfer _ _ (by simp only [View.advance, h, View.select, goto_inst_phase]) rfl)
  cases h : v.inst.phase
  case idle =>
    cases ha : v.inst.initAt with
    | none => exact rest v h ha
    | some st => exact init _ v st h ha rfl
  case faulted => exact ⟨0, by simp only [Function.iterate_zero, id, View.finish, h]⟩
  case sel => exact sel v h
  case xfer => exact xfer _ v h rfl
  case desel => exact desel v h
  case rel => exact rel v h
  case done => exact done v h
  case acq =>
    by_cases ho : v.owner = none
    · exact step v (sel _ (by simp only [View.advance, h, View.acquire, ho, if_true, goto_inst_phase]))
    · exact ⟨0, by simp only [Function.iterate_zero, id, View.finish, h]; exact if_neg ho⟩

/-- What every event keeps, a whole operation keeps. -/
theorem finish_keeps (P : View → Prop) (hP : ∀ w, P w → P w.advance) (h : P v) : P v.finish := by
  obtain ⟨n, hn⟩ := finish_eq_iterate v
  rw [hn]
  clear hn
  induction n with
  | zero => exact h
  | succ n ih => rw [Function.iterate_succ_apply']; exact hP _ ih

end Sys2Proof.Machine
end

