-- ==== Sys2Proof/Laws/Commands.lean ====
section
/-! SUPPORT. How a command reaches its operation: the acting instance, the guards, the entry checks, and the operation from
its acceptance to its return. -/

namespace Sys2Proof.Machine

variable {s t : State} {f : Framer} (v : View)

/-! ### The acting instance -/

theorem onSelf_of_act {act : View → Host.Outcome View Fault Refusal} (h : s.insts[s.cur]? = some f) :
    s.onSelf act = match act (s.view f) with
      | .next v => .next (s.put v)
      | .fault r => .fault r
      | .refused r => .refused r := by
  cases ha : act (s.view f) <;> simp [State.onSelf, h, ha]

theorem onSelf_next_of {act : View → Host.Outcome View Fault Refusal} {w : View} (h : s.insts[s.cur]? = some f)
    (ha : act (s.view f) = .next w) : s.onSelf act = .next (s.put w) := by rw [onSelf_of_act h, ha]

theorem onSelf_fault_of {act : View → Host.Outcome View Fault Refusal} {r : Fault} (h : s.insts[s.cur]? = some f)
    (ha : act (s.view f) = .fault r) : s.onSelf act = .fault r := by rw [onSelf_of_act h, ha]

theorem onSelf_refused_of {act : View → Host.Outcome View Fault Refusal} {r : Refusal} (h : s.insts[s.cur]? = some f)
    (ha : act (s.view f) = .refused r) : s.onSelf act = .refused r := by rw [onSelf_of_act h, ha]

/-- What a next state of an acting instance says: the instance exists, it acted, and only it changed. -/
theorem onSelf_next {act : View → Host.Outcome View Fault Refusal} (h : s.onSelf act = .next t) :
    ∃ f w, s.insts[s.cur]? = some f ∧ act (s.view f) = .next w ∧ t = s.put w := by
  unfold State.onSelf at h
  split at h
  · cases h
  · rename_i f hf
    split at h
    · rename_i w hw
      cases h
      exact ⟨f, w, hf, hw, rfl⟩
    · cases h
    · cases h

theorem put_became (w : View) : s.Became w.inst (s.put w) := ⟨rfl, rfl, rfl, rfl⟩

theorem guarded_free (cmd : Instr) (act : View → Host.Outcome View Fault Refusal) (hf : v.inst.fault = none)
    (hb : v.inst.busy = false) : v.guarded cmd act = act v := by
  simp [View.guarded, hf, hb]

/-- The three ways of a guarded command. -/
theorem guarded_cases (cmd : Instr) (act : View → Host.Outcome View Fault Refusal) :
    (v.inst.fault ≠ none ∧ v.guarded cmd act = .fault .framerFaulted) ∨
    (v.inst.fault = none ∧ v.inst.busy = true ∧ v.guarded cmd act = .next (v.hold cmd)) ∨
    (v.inst.fault = none ∧ v.inst.busy = false ∧ v.guarded cmd act = act v) := by
  unfold View.guarded
  cases hf : v.inst.fault <;> cases hb : v.inst.busy <;> simp

/-! ### Lent buffers -/

/-- A new definition leaves the lent slots alone when it gives each the value it holds. -/
theorem leavesLent_iff (f : Framer) (b : Nat) (x : Buffer) (slots : List (Option Byte)) :
    f.leavesLent b x slots = true ↔ (f.holds b = true → ∀ i < f.dp.cnt, slots[i]? = some (x.read i)) := by
  unfold Framer.leavesLent
  cases h : f.holds b <;> simp

theorem mem_held (b : Nat) (f : Framer) : b ∈ f.held ↔ f.holds b = true := by
  unfold Framer.held
  constructor
  · intro h
    split at h
    · simp only [List.mem_singleton] at h
      rw [h]; assumption
    · cases h
  · intro h
    have hb : f.dp.buf = b := by simp only [Framer.holds, Bool.and_eq_true, beq_iff_eq] at h; exact h.2
    subst hb
    simp [h]

theorem mem_lentExcept (k j b : Nat) (fs : List Framer) :
    b ∈ lentExcept k j fs ↔ ∃ i f, fs[i]? = some f ∧ j + i ≠ k ∧ f.holds b = true := by
  induction fs generalizing j with
  | nil => simp [lentExcept]
  | cons x xs ih =>
    rw [lentExcept, List.mem_append, ih]
    constructor
    · rintro (h | ⟨i, f, h1, h2, h3⟩)
      · split at h
        · cases h
        · exact ⟨0, x, rfl, by omega, (mem_held b x).1 h⟩
      · exact ⟨i + 1, f, h1, by omega, h3⟩
    · rintro ⟨i, f, h1, h2, h3⟩
      cases i with
      | zero =>
        left
        simp only [List.getElem?_cons_zero, Option.some.injEq] at h1
        rw [if_neg (by omega), mem_held, h1]
        exact h3
      | succ i => exact .inr ⟨i, f, h1, by omega, h3⟩

theorem lent_of_notLent (b : Nat) (h : s.notLent b) : (lentExcept s.cur 0 s.insts).contains b = false := by
  rw [Bool.eq_false_iff]
  intro hc
  obtain ⟨i, f, h1, h2, h3⟩ := (mem_lentExcept _ _ _ _).1 (List.contains_iff_mem.1 hc)
  rw [h i f h1 (by omega)] at h3
  cases h3

/-! ### The entry checks -/

theorem firstUndef_none (b : Buffer) (is : List Nat) : firstUndef b is = none ↔ ∀ i ∈ is, b.read i ≠ none := by
  induction is with
  | nil => simp [firstUndef]
  | cons i is ih =>
    unfold firstUndef
    cases h : b.read i <;> simp [h, ih]

theorem firstUndef_range (b : Buffer) (n i : Nat) (hi : i < n) (h : b.read i = none) (hl : ∀ j < i, b.read j ≠ none) :
    firstUndef b (List.range n) = some i := by
  have key : ∀ (m lo : Nat), lo ≤ i → i < lo + m → firstUndef b (List.range' lo m) = some i := by
    intro m
    induction m with
    | zero => intro lo h1 h2; omega
    | succ m ih =>
      intro lo h1 h2
      rw [List.range'_succ, firstUndef]
      by_cases hlo : lo = i
      · simp [hlo, h]
      · have := hl lo (by omega)
        rw [if_neg (by simpa using this)]
        exact ih (lo + 1) (by omega) (by omega)
  rw [List.range_eq_range']
  exact key n 0 (Nat.zero_le _) (by omega)

theorem entryFault_none (cmd : Instr) (n : Nat) (b : Buffer) (reads : List Nat) (f : Framer)
    (h : entryFault cmd n b reads f = none) :
    f.cs = Pin.deselected ∧ n ≤ b.len ∧ ∀ i ∈ reads, b.read i ≠ none := by
  unfold entryFault at h
  split at h
  · cases h
  · rename_i hcs
    split at h
    · cases h
    · rename_i hn
      split at h
      · cases h
      · rename_i hu
        exact ⟨not_not.1 hcs, by omega, (firstUndef_none _ _).1 hu⟩

theorem entryFault_pass (cmd : Instr) (n : Nat) (b : Buffer) (reads : List Nat) (f : Framer)
    (hcs : f.cs = Pin.deselected) (hn : n ≤ b.len) (hr : ∀ i ∈ reads, b.read i ≠ none) :
    entryFault cmd n b reads f = none := by
  rw [entryFault, if_neg (not_not.2 hcs), if_neg (by omega), (firstUndef_none _ _).2 hr]

/-- The three ways of a transfer's entry. -/
theorem enter_cases (cmd : Instr) (n b : Nat) (reads : List Nat) (d : Datapath) :
    (∃ c, entryFault cmd n (bufAt v.bufs b) reads v.inst = some c ∧ v.enter cmd n b reads d = .next (v.raise c)) ∨
    (entryFault cmd n (bufAt v.bufs b) reads v.inst = none ∧
      (v.enter cmd n b reads d = .fault .bufferLent ∨ v.enter cmd n b reads d = .next (v.accept d))) := by
  unfold View.enter
  cases h : entryFault cmd n (bufAt v.bufs b) reads v.inst with
  | some c => exact .inl ⟨c, rfl, rfl⟩
  | none =>
    right
    refine ⟨rfl, ?_⟩
    by_cases hl : n ≠ 0 ∧ v.lent.contains b = true
    · exact .inl (by simp only [if_pos hl])
    · exact .inr (by simp only [if_neg hl])

theorem enter_pass (cmd : Instr) (n b : Nat) (reads : List Nat) (d : Datapath) (hcs : v.inst.cs = Pin.deselected)
    (hn : n ≤ (bufAt v.bufs b).len) (hr : ∀ i ∈ reads, (bufAt v.bufs b).read i ≠ none)
    (hl : n = 0 ∨ v.lent.contains b = false) : v.enter cmd n b reads d = .next (v.accept d) := by
  rw [View.enter, entryFault_pass _ _ _ _ _ hcs hn hr]
  refine if_neg ?_
  rintro ⟨h1, h2⟩
  rcases hl with h | h
  · exact h1 h
  · rw [h] at h2; cases h2

/-- The slots of a WRITEN are the values they hold. -/
theorem slotVals_eq (b : Buffer) (n : Nat) (vals : List Byte) (hlen : vals.length = n)
    (h : ∀ i < n, b.read i = vals[i]?) : slotVals b n = vals := by
  subst hlen
  have hmap : ∀ l : List Nat, (∀ i ∈ l, i < vals.length) → l.filterMap b.read = l.filterMap (fun i => vals[i]?) := by
    intro l
    induction l with
    | nil => intro _; rfl
    | cons i l ih =>
      intro hl
      rw [List.filterMap_cons, List.filterMap_cons, h i (hl i (List.mem_cons_self ..)),
        ih fun j hj => hl j (List.mem_cons_of_mem _ hj)]
  rw [slotVals, hmap _ fun i hi => List.mem_range.1 hi]
  clear h hmap
  induction vals with
  | nil => rfl
  | cons x xs ih =>
    rw [List.length_cons, List.range_succ_eq_map, List.filterMap_cons]
    simp only [List.getElem?_cons_zero, List.filterMap_map]
    congr 1

/-! ### From the acceptance of a transfer to its return -/

/-- The view once the bracket is open: the bus acquired and chip-select asserted. -/
def View.opened (d : Datapath) : View := ((v.accept d).busBegin.goto .sel).select

theorem opened_trace (d : Datapath) :
    (v.opened d).inst.trace = v.inst.trace ++ [.busBegin v.inst.cfg.bus, .cs .low] := by
  simp [View.opened, View.select, View.csWrite]

@[simp] theorem opened_dp (d : Datapath) : (v.opened d).inst.dp = d := by
  simp [View.opened, View.select, View.csWrite]

@[simp] theorem opened_k (d : Datapath) : (v.opened d).inst.k = 0 := by
  simp [View.opened, View.select, View.csWrite]

@[simp] theorem opened_rxIn (d : Datapath) : (v.opened d).inst.rxIn = v.inst.rxIn := by
  simp [View.opened, View.select, View.csWrite]

@[simp] theorem opened_free (d : Datapath) : (v.opened d).free = v.free := rfl

@[simp] theorem opened_bufs (d : Datapath) : (v.opened d).bufs = v.bufs := rfl

/-- A transfer accepted on a free bus runs to its return: bracket open, every transfer of the frame, bracket closed. -/
theorem finish_accept (d : Datapath) (h : v.owner = none) :
    (v.accept d).finish = ((v.opened d).xferMany d.plan.length).deselect.release.ret := by
  have h1 : (v.accept d).finish = (v.accept d).acquire.finishSel := by simp [View.finish, h]
  rw [h1, View.acquire, accept_owner, h, if_pos rfl, View.finishSel, View.finishXfer, View.finishDesel, View.finishRel]
  have h2 : ((v.accept d).busBegin.goto .sel).select = v.opened d := rfl
  rw [h2, View.xferLeft, opened_dp, opened_k, Nat.sub_zero]

/-- A transfer accepted while the bus is owned is held. -/
theorem finish_accept_held (d : Datapath) (h : v.owner ≠ none) : (v.accept d).finish = v.accept d := by
  simp [View.finish, h]

/-- What the closing of the bracket leaves, for the view w after the last transfer of v's frame. -/
theorem finish_accept_spec (d : Datapath) (h : v.owner = none) (hcs : v.inst.cs = Pin.deselected) (w : View)
    (hw : w = (v.opened d).xferMany d.plan.length) :
    ∃ u, (v.accept d).finish = u ∧ u.owner = none ∧ u.bufs = w.bufs ∧ u.countMax = v.countMax ∧
      u.inst.trace = w.inst.trace ++ [.cs .high, .busEnd] ∧ u.inst.results = v.inst.results ++ [w.inst.dp.res] ∧
      u.inst.rxIn = w.inst.rxIn ∧ u.inst.phase = .idle ∧ u.inst.k = 0 ∧ u.inst.initAt = none ∧ u.inst.cfg = v.inst.cfg ∧
      u.inst.fault = v.inst.fault ∧ u.inst.inbox = v.inst.inbox ∧ u.inst.cs = v.inst.cs ∧ u.inst.rst = v.inst.rst ∧
      u.inst.lvlIn = v.inst.lvlIn := by
  have hk := hw ▸ xferMany_kept (v.opened d) d.plan.length
  have hcfg : w.inst.cfg = v.inst.cfg := by rw [hk.cfg]; simp [View.opened, View.select, View.csWrite]
  have hsel : w.inst.cs = Pin.selected := by
    rw [hk.cs]
    have : (v.opened d).inst.cs = { v.inst.cs with lvl := .low } :=
      setLvl_inst_own_cs ((v.accept d).busBegin.goto .sel) .low
    rw [this, hcs]
    rfl
  refine ⟨_, finish_accept v d h, rfl, by rw [← hw]; rfl, ?_, ?_, ?_, ?_, rfl, rfl, rfl, ?_, ?_, ?_, ?_, ?_, ?_⟩
  all_goals rw [← hw]
  · simp [View.release, View.deselect, View.csWrite, hk.countMax, View.opened, View.select]
  · simp [View.release, View.deselect, View.csWrite]
  · simp [View.release, View.deselect, View.csWrite, hk.results, View.opened, View.select]
  · simp [View.release, View.deselect, View.csWrite]
  · simp [View.release, View.deselect, View.csWrite, hcfg]
  · simp [View.release, View.deselect, View.csWrite, hk.fault, View.opened, View.select]
  · simp [View.release, View.deselect, View.csWrite, hk.inbox, View.opened, View.select]
  · have : w.deselect.release.ret.inst.cs = { w.inst.cs with lvl := .high } := setLvl_inst_own_cs w .high
    rw [this, hsel, hcs]
    rfl
  · have : w.deselect.release.ret.inst.rst = w.inst.rst := setLvl_inst_own_rst w .high
    rw [this, hk.rst]
    exact setLvl_inst_own_rst ((v.accept d).busBegin.goto .sel) .low
  · simp [View.release, View.deselect, View.csWrite, hk.lvlIn, View.opened, View.select]

end Sys2Proof.Machine
end

