-- ==== Sys2Proof/Laws/Exec.lean ====
section
/-! SUPPORT. Everything an instruction can do when it answers a next state, said once: `exec_next` for a whole operation,
`issue_next` for its entry alone. -/

namespace Sys2Proof.Machine

/-- What an instruction did to the view of the acting instance f of s, when it answered a next state; `go` is how far
an operation that was taken is carried. -/
inductive Did (go : View → View) (s : State) (f : Framer) : Instr → View → Prop where
  /-- The instance was busy: the command is held (R178). -/
  | held (i : Instr) (hf : f.fault = none) (hb : f.busy = true) (hi : i.isOperation = true) :
      Did go s f i ((s.view f).hold i)
  /-- An entry check failed: a fault is set (R171). -/
  | raised (i : Instr) (c : FaultCode) (hf : f.fault = none) (hb : f.busy = false) (hi : i.opensTransaction = true) :
      Did go s f i ((s.view f).raise c)
  /-- A transfer was accepted with the registers d. -/
  | accepted (i : Instr) (d : Datapath) (hf : f.fault = none) (hb : f.busy = false) (hcs : f.cs = Pin.deselected)
      (hi : i.opensTransaction = true) (hpos : 0 < d.plan.length)
      (hlen : 1 ≤ s.countMax → d.plan.length ≤ s.countMax + 1)
      (hread : d.opr = .readn → ∃ r n b ra, i = .readn r n b ra ∧
        d = loadReadn r n b ra ((bufAt s.bufs b).read 0) f.dp ∧ 1 ≤ n ∧ n ≤ (bufAt s.bufs b).len) :
      Did go s f i (go ((s.view f).accept d))
  /-- A READN of count 0 went straight to DONE (R126). -/
  | readNone (r : RegAddr) (b : Nat) (ra : Align) (hf : f.fault = none) (hb : f.busy = false) :
      Did go s f (.readn r 0 b ra)
        (go (((s.view f).setDp { f.dp with opr := .readn, reg := r, cnt := 0, ra := ra, res := .none }).goto .done))
  /-- INIT was taken (R150). -/
  | initialised (hf : f.fault = none) (hb : f.busy = false) : Did go s f .init (go (s.view f).beginInit)
  /-- A wire form made the transfer the sequencer was about to make. -/
  | sent (i : Instr) (hf : f.fault = none) (hp : f.phase = .xfer) (hn : f.nextWire = some (encode i))
      (hi : i.isOperation = false) : Did go s f i (s.view f).xferStep

theorem slotVals_length_le (b : Buffer) (n : Nat) : (slotVals b n).length ≤ n :=
  (List.length_filterMap_le _ _).trans (by simp)

/-- A command's entry, and how far its operation is carried. -/
def thenGo (go : View → View) (act : View → Host.Outcome View Fault Refusal) (v : View) : Host.Outcome View Fault Refusal :=
  match act v with
  | .next w => .next (go w)
  | .fault r => .fault r
  | .refused r => .refused r

theorem thenGo_id (act : View → Host.Outcome View Fault Refusal) : thenGo id act = act := by
  funext v
  unfold thenGo
  cases act v <;> rfl

theorem thenGo_next {go : View → View} {act : View → Host.Outcome View Fault Refusal} {v w : View}
    (h : thenGo go act v = .next w) : ∃ u, act v = .next u ∧ w = go u := by
  unfold thenGo at h
  split at h
  · rename_i u hu
    cases h
    exact ⟨u, hu, rfl⟩
  · cases h
  · cases h

variable {go : View → View} {s t : State}

/-- A guarded command: held, or its entry was taken. -/
theorem guarded_next {cmd : Instr} {act : View → Host.Outcome View Fault Refusal} (hop : cmd.isOperation = true)
    (h : s.onSelf (fun v => v.guarded cmd (thenGo go act)) = .next t) :
    ∃ f w, s.insts[s.cur]? = some f ∧ t = s.put w ∧
      (Did go s f cmd w ∨ (f.fault = none ∧ f.busy = false ∧ ∃ u, act (s.view f) = .next u ∧ w = go u)) := by
  obtain ⟨f, w, h1, h2, h3⟩ := onSelf_next h
  refine ⟨f, w, h1, h3, ?_⟩
  rcases guarded_cases (s.view f) cmd (thenGo go act) with ⟨_, e⟩ | ⟨g1, g2, e⟩ | ⟨g1, g2, e⟩ <;> rw [e] at h2
  · cases h2
  · cases h2
    exact .inl (.held _ g1 g2 hop)
  · exact .inr ⟨g1, g2, thenGo_next h2⟩

/-- A guarded transfer whose entry loads d f. -/
theorem transfer_next (hgo : ∀ v c, go (View.raise v c) = v.raise c) {cmd : Instr} {n b : Nat} {reads : List Nat}
    {d : Framer → Datapath} {act : View → Host.Outcome View Fault Refusal} (hop : cmd.isOperation = true)
    (hot : cmd.opensTransaction = true) (hact : ∀ f, act (s.view f) = (s.view f).enter cmd n b reads (d f))
    (hpos : ∀ f, 0 < (d f).plan.length) (hlen : ∀ f, 1 ≤ s.countMax → (d f).plan.length ≤ s.countMax + 1)
    (hread : ∀ f, n ≤ (bufAt s.bufs b).len → (d f).opr = .readn → ∃ r n b ra, cmd = .readn r n b ra ∧
      d f = loadReadn r n b ra ((bufAt s.bufs b).read 0) f.dp ∧ 1 ≤ n ∧ n ≤ (bufAt s.bufs b).len)
    (h : s.onSelf (fun v => v.guarded cmd (thenGo go act)) = .next t) :
    ∃ f w, s.insts[s.cur]? = some f ∧ t = s.put w ∧ Did go s f cmd w := by
  obtain ⟨f, w, h1, h2, h3 | ⟨g1, g2, u, hu, rfl⟩⟩ := guarded_next hop h
  · exact ⟨f, w, h1, h2, h3⟩
  refine ⟨f, _, h1, h2, ?_⟩
  rw [hact] at hu
  rcases enter_cases (s.view f) cmd n b reads (d f) with ⟨c, _, q⟩ | ⟨q1, q | q⟩ <;> rw [q] at hu
  · cases hu
    rw [hgo]
    exact .raised _ _ g1 g2 hot
  · cases hu
  · cases hu
    obtain ⟨c1, c2, _⟩ := entryFault_none _ _ _ _ _ q1
    exact .accepted _ _ g1 g2 c1 hot (hpos f) (hlen f) (hread f c2)

theorem wire_next {i : Instr} (hi : i.isOperation = false) (h : s.onSelf (View.wireStep (encode i)) = .next t) :
    ∃ f w, s.insts[s.cur]? = some f ∧ t = s.put w ∧ Did go s f i w := by
  obtain ⟨f, w, h1, h2, h3⟩ := onSelf_next h
  refine ⟨f, w, h1, h3, ?_⟩
  unfold View.wireStep at h2
  split at h2
  · cases h2
  · rename_i hf
    split at h2
    · rename_i hh
      cases h2
      exact .sent _ (by simpa using hf) hh.1 hh.2 hi
    · cases h2

theorem write1_next (hgo : ∀ v c, go (View.raise v c) = v.raise c) {r : RegAddr} {x : Byte}
    (h : s.onSelf (fun v => v.guarded (.write1 r x) (thenGo go (enterWrite1 r x))) = .next t) :
    ∃ f w, s.insts[s.cur]? = some f ∧ t = s.put w ∧ Did go s f (.write1 r x) w :=
  transfer_next hgo (d := fun f => loadWrite1 r x f.dp) rfl rfl (fun _ => rfl)
    (fun f => by simp [loadWrite1, planOf, planTx]) (fun f _ => by simp [loadWrite1, planOf, planTx]; omega)
    (fun f _ h => by simp [loadWrite1] at h) h

theorem read1_next (hgo : ∀ v c, go (View.raise v c) = v.raise c) {r : RegAddr}
    (h : s.onSelf (fun v => v.guarded (.read1 r) (thenGo go (enterRead1 r))) = .next t) :
    ∃ f w, s.insts[s.cur]? = some f ∧ t = s.put w ∧ Did go s f (.read1 r) w :=
  transfer_next hgo (d := fun f => loadRead1 r f.dp) rfl rfl (fun _ => rfl)
    (fun f => by simp [loadRead1, planOf, planTx]) (fun f _ => by simp [loadRead1, planOf, planTx]; omega)
    (fun f _ h => by simp [loadRead1] at h) h

theorem writen_next (hgo : ∀ v c, go (View.raise v c) = v.raise c) {r : RegAddr} {n b : Nat}
    (h : (if countOk s.countMax n then s.onSelf (fun v => v.guarded (.writen r n b) (thenGo go (enterWriten r n b)))
      else .refused (.rejected .countRange)) = .next t) :
    ∃ f w, s.insts[s.cur]? = some f ∧ t = s.put w ∧ Did go s f (.writen r n b) w := by
  split at h
  · rename_i hn
    have hn : n ≤ s.countMax := by simpa [countOk] using hn
    exact transfer_next hgo (d := fun f => loadWriten r n b (slotVals (bufAt s.bufs b) n) f.dp) rfl rfl (fun _ => rfl)
      (fun f => by simp [loadWriten, planOf, planTx])
      (fun f _ => by
        have := slotVals_length_le (bufAt s.bufs b) n
        simp [loadWriten, planOf, planTx]
        omega)
      (fun f _ h => by simp [loadWriten] at h) h
  · cases h

theorem readn_next (hgo : ∀ v c, go (View.raise v c) = v.raise c) {r : RegAddr} {n b : Nat} {ra : Align}
    (h : (if countOk s.countMax n then
        s.onSelf (fun v => v.guarded (.readn r n b ra) (thenGo go (enterReadn r n b ra)))
      else .refused (.rejected .countRange)) = .next t) :
    ∃ f w, s.insts[s.cur]? = some f ∧ t = s.put w ∧ Did go s f (.readn r n b ra) w := by
  split at h
  · rename_i hc
    have hc : n ≤ s.countMax := by simpa [countOk] using hc
    by_cases hn : n = 0
    · subst hn
      obtain ⟨f, w, h1, h2, h3 | ⟨g1, g2, u, hu, rfl⟩⟩ := guarded_next rfl h
      · exact ⟨f, w, h1, h2, h3⟩
      · cases hu
        exact ⟨f, _, h1, h2, .readNone _ _ _ g1 g2⟩
    · exact transfer_next hgo (d := fun f => loadReadn r n b ra ((bufAt s.bufs b).read 0) f.dp) rfl
        (by simp [Instr.opensTransaction]; omega) (fun _ => by simp [enterReadn, hn]; rfl)
        (fun f => by simp [loadReadn, planOf, planTx, hn])
        (fun f _ => by simp [loadReadn, planOf, planTx, hn]; omega)
        (fun f hl _ => ⟨r, n, b, ra, rfl, rfl, by omega, hl⟩) h
  · cases h

theorem init_next (h : s.onSelf (fun v => v.guarded .init (thenGo go enterInit)) = .next t) :
    ∃ f w, s.insts[s.cur]? = some f ∧ t = s.put w ∧ Did go s f .init w := by
  obtain ⟨f, w, h1, h2, h3 | ⟨g1, g2, u, hu, rfl⟩⟩ := guarded_next rfl h
  · exact ⟨f, w, h1, h2, h3⟩
  · cases hu
    exact ⟨f, _, h1, h2, .initialised g1 g2⟩

/-- What a next state of exec says. -/
theorem exec_next {i : Instr} (h : exec i s = .next t) :
    ∃ f w, s.insts[s.cur]? = some f ∧ t = s.put w ∧ Did View.finish s f i w := by
  cases i with
  | write1 r x => exact write1_next (fun _ _ => rfl) h
  | writen r n b => exact writen_next (fun _ _ => rfl) h
  | read1 r => exact read1_next (fun _ _ => rfl) h
  | readn r n b ra => exact readn_next (fun _ _ => rfl) h
  | init => exact init_next h
  | addrW r => exact wire_next rfl h
  | addrR r => exact wire_next rfl h
  | dummy => exact wire_next rfl h
  | reserved5 => cases h
  | reserved6 => cases h
  | reserved7 => cases h

/-- What a next state of issue says. -/
theorem issue_next {i : Instr} (h : issue i s = .next t) :
    ∃ f w, s.insts[s.cur]? = some f ∧ t = s.put w ∧ Did id s f i w := by
  cases i with
  | write1 r x => exact write1_next (fun _ _ => rfl) (by rw [thenGo_id]; exact h)
  | writen r n b => exact writen_next (fun _ _ => rfl) (by rw [thenGo_id]; exact h)
  | read1 r => exact read1_next (fun _ _ => rfl) (by rw [thenGo_id]; exact h)
  | readn r n b ra => exact readn_next (fun _ _ => rfl) (by rw [thenGo_id]; exact h)
  | init => exact init_next (by rw [thenGo_id]; exact h)
  | addrW r => exact wire_next rfl h
  | addrR r => exact wire_next rfl h
  | dummy => exact wire_next rfl h
  | reserved5 => cases h
  | reserved6 => cases h
  | reserved7 => cases h

end Sys2Proof.Machine
end

