-- ==== Sys2Proof/Laws/PerInstr.lean ====
section
/-! SUPPORT. Statements for all instructions, one lemma per constructor. Family Form: an instruction is encoded in its own
encoding of 30_encoding.md, a command record with its selector (R76, R80) or a wire byte at its place (R71-R74). -/

namespace Sys2Proof.Laws.Form

open Sys2Proof

/-- The selector an instruction is encoded with, or its place in a frame and the two fixed bits of its byte. -/
def Statement (i : Instr) : Prop :=
  match i with
  | .write1 r _ => (encodeRecord i).op = 0 ∧ (encodeRecord i).reg = r.toNat ∧ (encodeRecord i).reg < 64
  | .writen r n _ => (encodeRecord i).op = 1 ∧ (encodeRecord i).reg = r.toNat ∧ (encodeRecord i).count = n ∧
      0 ≤ (encodeRecord i).count
  | .read1 r => (encodeRecord i).op = 2 ∧ (encodeRecord i).reg = r.toNat ∧ (encodeRecord i).reg < 64
  | .readn _ n _ ra => (encodeRecord i).op = 3 ∧ (encodeRecord i).count = n ∧ (encodeRecord i).rxAlign = ra.toNat ∧
      (encodeRecord i).rxAlign < 8
  | .init => (encodeRecord i).op = 4
  | .reserved5 => (encodeRecord i).op = 5
  | .reserved6 => (encodeRecord i).op = 6
  | .reserved7 => (encodeRecord i).op = 7
  | .addrW r => encode i = .wire .address (addrWrite r) ∧ addrIsRead (addrWrite r) = false ∧
      addrReserved (addrWrite r) = false ∧ addrReg (addrWrite r) = r
  | .addrR r => encode i = .wire .address (addrRead r) ∧ addrIsRead (addrRead r) = true ∧
      addrReserved (addrRead r) = false ∧ addrReg (addrRead r) = r
  | .dummy => encode i = .wire .readEnd 0x00

theorem write1 (r : RegAddr) (x : Byte) : Statement (.write1 r x) := ⟨rfl, rfl, r.isLt⟩

theorem writen (r : RegAddr) (n b : Nat) : Statement (.writen r n b) := ⟨rfl, rfl, rfl, Int.natCast_nonneg n⟩

theorem read1 (r : RegAddr) : Statement (.read1 r) := ⟨rfl, rfl, r.isLt⟩

theorem readn (r : RegAddr) (n b : Nat) (ra : Align) : Statement (.readn r n b ra) := ⟨rfl, rfl, rfl, ra.isLt⟩

theorem init : Statement .init := rfl

theorem reserved5 : Statement .reserved5 := rfl

theorem reserved6 : Statement .reserved6 := rfl

theorem reserved7 : Statement .reserved7 := rfl

theorem addrW (r : RegAddr) : Statement (.addrW r) :=
  ⟨rfl, by revert r; decide, by revert r; decide, by revert r; decide⟩

theorem addrR (r : RegAddr) : Statement (.addrR r) :=
  ⟨rfl, by revert r; decide, by revert r; decide, by revert r; decide⟩

theorem dummy : Statement .dummy := rfl

end Sys2Proof.Laws.Form
end

