-- ==== Sys2Proof/Laws/Step.lean ====
section
/-! SUPPORT. Everything a step can do when it answers a next state, said once: `step_cases`. -/

namespace Sys2Proof.Machine

/-- What a framer's turn did to the view of the acting instance f of s. -/
inductive Acted (s : State) (f : Framer) : View → Prop where
  /-- It took a command, whole or up to its first event, or made the transfer of a decoded wire byte. -/
  | did (go : View → View) (hgo : go = id ∨ go = View.finish) (i : Instr) (w : View) (h : Did go s f i w) : Acted s f w
  /-- It went on with the operation in progress, by one event or to its return. -/
  | carried (go : View → View) (hgo : go = View.advance ∨ go = View.finish) (hf : f.fault = none) (hb : f.busy = true) :
      Acted s f (go (s.view f))

/-- What one move made of the state s0, whose turn list and acting instance are already those after it; u is the turn, if
one was given. -/
inductive Moved (s0 : State) (u : Option Turn) : State → Prop where
  /-- An instance with nothing to do, or a bus user held at its Begin, or an End by another than the owner. -/
  | passed : Moved s0 u s0
  /-- Instance `cur` acted on what it found. -/
  | acted (f : Framer) (w : View) (hf : s0.insts[s0.cur]? = some f) (h : Acted s0 f w) : Moved s0 u (s0.put w)
  /-- Instance `cur` took a command from its queue. -/
  | fetched (f : Framer) (r : Record) (go : View → View) (hgo : go = id ∨ go = View.finish) (i : Instr) (w : View)
      (hf : s0.insts[s0.cur]? = some f) (hb : f.busy = false) (hr : f.inbox.head? = some r)
      (hd : decode s0.countMax (.command r) = .ok i)
      (h : Did go s0.popInbox { f with inbox := f.inbox.tail } i w) : Moved s0 u (s0.popInbox.put w)
  /-- The HOST issued a command. -/
  | issued (k : Nat) (r : Record) (hu : u = some (.hostIssue k r)) :
      Moved s0 u { s0 with insts := s0.insts.modify k fun f => { f with inbox := f.inbox ++ [r] } }
  /-- The HOST defined a buffer and left the slots lent to calls as they are. -/
  | placed (b : Nat) (slots : List (Option Byte)) (hu : u = some (.hostBuffer b slots))
      (hh : ∀ f ∈ s0.insts, f.holds b = true → ∀ i < f.dp.cnt, slots[i]? = some ((bufAt s0.bufs b).read i)) :
      Moved s0 u { s0 with bufs := placeBuf s0.bufs b (Buffer.ofSlots slots) }
  /-- Another bus user acquired the bus. -/
  | acquired (hu : u = some .platformBegin) (hb : s0.busOwner = none) : Moved s0 u { s0 with busOwner := some .platform }
  /-- That bus user released it. -/
  | released (hu : u = some .platformEnd) (hb : s0.busOwner = some .platform) : Moved s0 u { s0 with busOwner := none }

variable {s t : State} {u : Option Turn}

theorem popInbox_at {f : Framer} (h : s.insts[s.cur]? = some f) :
    s.popInbox.insts[s.popInbox.cur]? = some { f with inbox := f.inbox.tail } := by
  simp [State.popInbox, h]

theorem fetch_moved {f : Framer} {run : Instr → State → Host.Outcome State Fault Refusal} {go : View → View}
    (hgo : go = id ∨ go = View.finish) (hf : s.insts[s.cur]? = some f) (hb : f.busy = false)
    (hrun : ∀ {i s t}, run i s = .next t → ∃ f w, s.insts[s.cur]? = some f ∧ t = s.put w ∧ Did go s f i w)
    (h : s.fetch f run = .next t) : Moved s u t := by
  unfold State.fetch at h
  split at h
  · split at h
    · cases h
    · cases h; exact .passed
  · rename_i r rs hr
    split at h
    · cases h
    · rename_i i hi
      obtain ⟨g, w, hg, rfl, hd⟩ := hrun h
      rw [popInbox_at hf] at hg
      cases hg
      exact .fetched f r go hgo i w hf hb (by rw [hr]; rfl) hi hd

theorem carryOn_moved {f : Framer} {go : View → View} (hgo : go = View.advance ∨ go = View.finish)
    (hf : s.insts[s.cur]? = some f) (hb : f.busy = true) (h : s.carryOn go = .next t) : Moved s u t := by
  obtain ⟨g, w, hg, hw, rfl⟩ := onSelf_next h
  rw [hf] at hg
  cases hg
  split at hw
  · cases hw
  · rename_i hfa
    cases hw
    exact .acted f _ hf (.carried go hgo (by simpa using hfa) hb)

theorem turnWhole_moved (h : s.turnWhole = .next t) : Moved s u t := by
  unfold State.turnWhole at h
  split at h
  · cases h
  · rename_i f hf
    split at h
    · rename_i hb
      exact carryOn_moved (.inr rfl) hf hb h
    · rename_i hb
      exact fetch_moved (.inr rfl) hf (by simpa using hb) (fun h => exec_next h) h

theorem turnEvent_moved (h : s.turnEvent = .next t) : Moved s u t := by
  unfold State.turnEvent at h
  split at h
  · cases h
  · rename_i f hf
    split at h
    · rename_i hb
      split at h
      · split at h
        · exact carryOn_moved (.inl rfl) hf hb h
        · split at h
          · cases h
          · obtain ⟨g, w, hg, rfl, hd⟩ := exec_next h
            exact .acted g w hg (.did _ (.inr rfl) _ _ hd)
      · exact carryOn_moved (.inl rfl) hf hb h
    · rename_i hb
      exact fetch_moved (.inl rfl) hf (by simpa using hb) (fun h => issue_next h) h

theorem takeTurn_moved (u : Turn) (h : s.takeTurn u = .next t) : ∃ k, Moved { s with cur := k } (some u) t := by
  match u, h with
  | .framer k .whole, h => exact ⟨k, turnWhole_moved h⟩
  | .framer k .event, h => exact ⟨k, turnEvent_moved h⟩
  | .hostIssue k r, h =>
    refine ⟨s.cur, ?_⟩
    simp only [State.takeTurn, State.hostIssue] at h
    split at h
    · cases h; exact .issued k r rfl
    · cases h
  | .hostBuffer b slots, h =>
    refine ⟨s.cur, ?_⟩
    simp only [State.takeTurn, State.hostBuffer] at h
    split at h
    · rename_i hh
      cases h
      exact .placed b slots rfl fun f hf => (leavesLent_iff f b _ slots).1 (List.all_eq_true.1 hh f hf)
    · cases h
  | .platformBegin, h =>
    refine ⟨s.cur, ?_⟩
    simp only [State.takeTurn, State.platformBegin] at h
    split at h <;> cases h
    · exact .acquired rfl (by assumption)
    · exact .passed
  | .platformEnd, h =>
    refine ⟨s.cur, ?_⟩
    simp only [State.takeTurn, State.platformEnd] at h
    split at h <;> cases h
    · exact .released rfl (by assumption)
    · exact .passed

/-- What a next state of step says: one move, from the state with the turn taken off and its instance acting. -/
theorem step_cases (h : step s = .next t) : ∃ ts k, Moved { s with turns := ts, cur := k } s.turns.head? t := by
  unfold step State.nextTurn at h
  cases ht : s.turns with
  | nil =>
    rw [ht] at h
    exact ⟨[], s.cur, by rw [← ht]; exact turnWhole_moved h⟩
  | cons u ts =>
    rw [ht] at h
    obtain ⟨k, hk⟩ := takeTurn_moved u h
    exact ⟨ts, k, hk⟩

/-! ### The instances after a move -/

@[simp] theorem popInbox_length : s.popInbox.insts.length = s.insts.length := by simp [State.popInbox]

theorem popInbox_other (k : Nat) (h : k ≠ s.cur) : s.popInbox.insts[k]? = s.insts[k]? := by
  simp [State.popInbox, Ne.symm h]

theorem put_at {f : Framer} (w : View) (h : s.insts[s.cur]? = some f) : (s.put w).insts[s.cur]? = some w.inst := by
  have hl : s.cur < s.insts.length := by
    rw [List.getElem?_eq_some_iff] at h; exact h.1
  simp [State.put, hl]

theorem put_other (w : View) (k : Nat) (h : k ≠ s.cur) : (s.put w).insts[k]? = s.insts[k]? := by
  simp [State.put, Ne.symm h]

/-- What holds of the view a turn begins with, of each way its command is entered, and is kept by every single event,
holds of the view it ends with. -/
theorem acted_keeps {s : State} {f : Framer} (P : View → Prop) (h0 : P (s.view f)) (hadv : ∀ w, P w → P w.advance)
    (hhold : ∀ i, f.fault = none → f.busy = true → P ((s.view f).hold i))
    (hraise : ∀ c, f.fault = none → f.busy = false → P ((s.view f).raise c))
    (hacc : ∀ d : Datapath, f.fault = none → f.busy = false → f.cs = Pin.deselected → 0 < d.plan.length →
      (1 ≤ s.countMax → d.plan.length ≤ s.countMax + 1) → P ((s.view f).accept d))
    (hnone : ∀ d : Datapath, f.fault = none → f.busy = false → P (((s.view f).setDp d).goto .done))
    (hinit : f.fault = none → f.busy = false → P (s.view f).beginInit)
    (hxfer : f.fault = none → f.phase = .xfer → P (s.view f).xferStep)
   {w : View} (h : Acted s f w) : P w := by
  have hgo : ∀ go : View → View, go = id ∨ go = View.finish → ∀ v, P v → P (go v) := by
    rintro go (rfl | rfl) v hv
    · exact hv
    · exact finish_keeps v P hadv hv
  cases h with
  | did go hg i w h =>
    cases h with
    | held _ hf hb => exact hhold _ hf hb
    | raised _ c hf hb => exact hraise _ hf hb
    | accepted _ d hf hb hcs hi hpos hlen hread => exact hgo _ hg _ (hacc d hf hb hcs hpos hlen)
    | readNone r b ra hf hb => exact hgo _ hg _ (hnone _ hf hb)
    | initialised hf hb => exact hgo _ hg _ (hinit hf hb)
    | sent _ hf hp hn hi => exact hxfer hf hp
  | carried go hg hf hb =>
    rcases hg with rfl | rfl
    · exact hadv _ h0
    · exact finish_keeps _ P hadv h0

/-- A relation between an instance before and after a step holds of every instance when it is reflexive, lets the
queue change, and holds of the acting instance. -/
theorem step_each (R : Framer → Framer → Prop) (hrefl : ∀ f, R f f)
    (hinbox : ∀ f l, R f { f with inbox := l })
    (hfetch : ∀ f g l, R { f with inbox := l } g → R f g)
    (hact : ∀ (s : State) (f : Framer) (w : View), Acted s f w → R f w.inst) (h : step s = .next t) (k : Nat) (f : Framer)
    (hk : s.insts[k]? = some f) : ∃ f', t.insts[k]? = some f' ∧ R f f' := by
  obtain ⟨ts, c, hm⟩ := step_cases h
  generalize hs0 : ({ s with turns := ts, cur := c } : State) = s0 at hm
  have hi : s0.insts[k]? = some f := by rw [← hs0]; exact hk
  clear hs0 hk h
  cases hm with
  | passed => exact ⟨f, hi, hrefl f⟩
  | acted g w hg ha =>
    by_cases hc : k = s0.cur
    · subst hc
      rw [hg] at hi; cases hi
      exact ⟨_, put_at w hg, hact _ _ _ ha⟩
    · exact ⟨f, (put_other w k hc).trans hi, hrefl f⟩
  | fetched g r go hgo i w hg hb hr hd ha =>
    by_cases hc : k = s0.cur
    · subst hc
      rw [hg] at hi; cases hi
      exact ⟨_, put_at w (popInbox_at hg), hfetch _ _ _ (hact _ _ _ (.did go hgo i w ha))⟩
    · refine ⟨f, ?_, hrefl f⟩
      rw [put_other w k (by simpa using hc), popInbox_other k hc, hi]
  | issued j r =>
    by_cases hc : j = k
    · exact ⟨{ f with inbox := f.inbox ++ [r] }, by simp [hc, hi], hinbox _ _⟩
    · exact ⟨f, by simp [hc, hi], hrefl f⟩
  | placed => exact ⟨f, hi, hrefl f⟩
  | acquired => exact ⟨f, hi, hrefl f⟩
  | released => exact ⟨f, hi, hrefl f⟩

end Sys2Proof.Machine
end

