-- ==== Sys2Proof/Tests/Slice0.lean ====
section
/-! SUPPORT. The tests: the refusals of WellFormed, words written out from the encodings, vectors of 95_test_vectors.md
(each named by its number there), and for each obligation with hypotheses a witness that meets them. -/

namespace Sys2Proof.Tests

open Sys2Proof Sys2Proof.Machine

/-! ### The states of the tests -/

def tBus : BusSettings := ⟨4, .msbFirst, false, false⟩

/-- Instance 0 of 95_test_vectors.md, after INIT: CS_PIN = 10, RST_PIN = some 9. -/
def tFramer : Framer :=
  { Framer.construct ⟨10, some 9, tBus⟩ with cs := Pin.deselected, rxIn := [0x00, 0x11, 0x22, 0x33], lvlIn := [.low] }

/-- Instance 1: CS_PIN = 8, no reset pin. -/
def tOther : Framer := { Framer.construct ⟨8, none, tBus⟩ with cs := Pin.deselected }

/-- Buffers W, U, B and A. -/
def tBufs : List Buffer :=
  [.ofSlots [some 0x11, some 0x22, some 0x33], .ofSlots [some 0x11, none], .ofSlots [none, none, none, some 0x77],
    .ofSlots [some 0xA5]]

/-- Both instances idle after INIT, the bus free, COUNT_MAX = 4. -/
def tReady : State := { State.construct [] 4 with insts := [tFramer, tOther], bufs := tBufs }

/-- The same with instance 0 replaced. -/
def tWith (f : Framer) : State := { tReady with insts := [f, tOther] }

/-- The same before any INIT. -/
def tFresh : State := tWith (Framer.construct ⟨10, some 9, tBus⟩)

/-- The same with the bytes the BUS will answer. -/
def tRx (rx : List Byte) : State := tWith { tFramer with rxIn := rx }

/-- The same with the bus owned by another user. -/
def tOwned : State := { tReady with busOwner := some .platform }

/-- Instance 0 inside a frame. -/
def tInside (opr : Opr) (plan : List Byte) (k idx buf : Nat) : Framer :=
  { tFramer with
    phase := .xfer, k := k, cs := Pin.selected,
    dp := { Datapath.zero with opr := opr, plan := plan, idx := idx, buf := buf, cnt := plan.length - 1 } }

/-- The machine with instance 0 inside a frame, owning the bus. -/
def tMid (opr : Opr) (plan : List Byte) (k idx buf : Nat) : State :=
  { tWith (tInside opr plan k idx buf) with busOwner := some (.framer 0) }

/-- Instance 0 inside INIT, with the event st to come. -/
def tInit (st : InitStep) : Framer :=
  { tFramer with initAt := some st, dp := { Datapath.zero with opr := .init } }

/-- Instance 0 held at the Begin of a WRITE1. -/
def tAcq : Framer := { tFramer with phase := .acq, dp := loadWrite1 0x01 0xAB Datapath.zero }

/-- The machine with instance 0 inside INIT, and the turn t to come. -/
def tInitTurn (st : InitStep) (t : Turn) : State := { tWith (tInit st) with turns := [t] }

/-- Instance 0 with a fault set. -/
def tFaulted : Framer := { tFramer with fault := some (.notInit (.read1 1)), phase := .faulted, inbox := [{ op := 4 }] }

/-- What an outcome says of instance 0, when it is a next state. -/
def onFirst {α : Type} (o : Host.Outcome State Fault Refusal) (g : Framer → α) : Option α :=
  match o with
  | .next t => t.insts[0]?.map g
  | .fault _ => none
  | .refused _ => none

/-- What an outcome says of buffer b, when it is a next state. -/
def slotsOf (o : Host.Outcome State Fault Refusal) (b : Nat) : Option (List (Option Byte)) :=
  match o with
  | .next t => some (bufAt t.bufs b).slots
  | .fault _ => none
  | .refused _ => none

/-- The bytes a trace sends. -/
def sent (es : List Event) : List Byte :=
  es.filterMap fun e => match e with
    | .xfer tx _ => some tx
    | .busBegin _ | .busEnd | .cs _ | .pinMode _ _ | .pinWrite _ _ | .pinRead _ _ | .delay _ | .bufRd _ _ | .bufWr _ _ => none

/-! ### WellFormed -/

theorem test_wf_writen_count : (Instr.writen 9 5 0).wf 4 = false ∧ (Instr.writen 9 4 0).wf 4 = true := by decide

theorem test_wf_readn_count : (Instr.readn 9 5 0 0).wf 4 = false ∧ (Instr.readn 9 4 0 7).wf 4 = true := by decide

/-! ### Words written out from the encodings (30_encoding.md R72-R74, R76, 95_test_vectors.md 2.1) -/

theorem test_word_write1 :
    decode 4 (.command { op := 0, reg := 0x01, value := 0xAB }) = .ok (.write1 0x01 0xAB) := by decide

theorem test_word_writen :
    decode 4 (.command { op := 1, reg := 0x09, count := 3, buf := 2 }) = .ok (.writen 0x09 3 2) := by decide

theorem test_word_read1 : decode 4 (.command { op := 2, reg := 0x37 }) = .ok (.read1 0x37) := by decide

theorem test_word_readn :
    decode 4 (.command { op := 3, reg := 0x09, count := 2, buf := 1, rxAlign := 3 }) = .ok (.readn 0x09 2 1 3) := by decide

theorem test_word_init : decode 4 (.command { op := 4 }) = .ok .init := by decide

theorem test_word_reserved : decode 4 (.command { op := 5 }) = .ok .reserved5 ∧
    decode 4 (.command { op := 6 }) = .ok .reserved6 ∧ decode 4 (.command { op := 7 }) = .ok .reserved7 := by decide

theorem test_word_addrW : decode 4 (.wire .address 0b00010010#8) = .ok (.addrW 0x09) ∧
    decode 4 (.wire .address 0b01111110#8) = .ok (.addrW 0x3F) := by decide

theorem test_word_addrR : decode 4 (.wire .address 0b10010010#8) = .ok (.addrR 0x09) ∧
    decode 4 (.wire .address 0b11111110#8) = .ok (.addrR 0x3F) := by decide

theorem test_word_dummy : decode 4 (.wire .readEnd 0b00000000#8) = .ok .dummy ∧
    decode 4 (.wire .address 0b00000000#8) = .ok (.addrW 0x00) := by decide

/-- R81, R74: the printed literal 0x93 of 90_conflicts.md C1 has the reserved bit set; a read frame ends in 0x00. -/
theorem test_word_refused : decode 4 (.wire .address 0x93) = .error .addrLowBit ∧
    decode 4 (.wire .readEnd 0x92) = .error .dummyNotZero := by decide

/-- The table of 95_test_vectors.md 2.1. -/
theorem test_address_table :
    [0x00, 0x01, 0x09, 0x0A, 0x20, 0x37, 0x3F].map addrWrite = [0x00, 0x02, 0x12, 0x14, 0x40, 0x6E, 0x7E] ∧
    [0x00, 0x01, 0x09, 0x0A, 0x20, 0x37, 0x3F].map addrRead = [0x80, 0x82, 0x92, 0x94, 0xC0, 0xEE, 0xFE] := by decide

/-- The table of 30_encoding.md R75. -/
theorem test_mask_table :
    [0, 1, 2, 3, 4, 5, 6, 7].map rxMask = [0xFF, 0xFE, 0xFC, 0xF8, 0xF0, 0xE0, 0xC0, 0x80] := by decide

/-- The listing lines of R83. -/
theorem test_listing : listing (.write1 0x01 0xAB) = some "wr 0x01, 0xab" ∧
    listing (.readn 0x09 3 1 0) = some "rdn 0x09, 3, B1, 0" := by decide

/-- R78: the monitor on the frames of 95_test_vectors.md, and on the frame printed in the source's Scenario. -/
theorem test_monitor : decodeFrame [0x12, 0x11, 0x22] = .ok (.write 0x09 [0x11, 0x22]) ∧
    decodeFrame [0x92, 0x92, 0x92, 0x00] = .ok (.read 0x09 3) ∧
    decodeFrame [0x93, 0x93, 0x93, 0x00] = .error .addrLowBit ∧ decodeFrame [0x92, 0x12, 0x00] = .error .notAFrame := by
  decide

/-! ### WRITE1 -/

theorem test_W1_1 : onFirst (exec (.write1 0x01 0xAB) tReady) (fun f => (f.trace, f.results, f.cs)) =
    some ([.busBegin tBus, .cs .low, .xfer 0x02 0x00, .xfer 0xAB 0x11, .cs .high, .busEnd], [.none], Pin.deselected) := by
  decide

theorem test_W1_5 : onFirst (exec (.write1 0x01 0xAB) tFresh) (fun f => (f.trace, f.fault, f.cs)) =
    some ([], some (.notInit (.write1 0x01 0xAB)), Pin.unk) := by decide

/-! ### WRITEN -/

theorem test_WN_3 : onFirst (exec (.writen 0x09 3 0) tReady) (fun f => f.trace) =
    some [.busBegin tBus, .cs .low, .xfer 0x12 0x00, .bufRd 0 0x11, .xfer 0x11 0x11, .bufRd 1 0x22, .xfer 0x22 0x22,
      .bufRd 2 0x33, .xfer 0x33 0x33, .cs .high, .busEnd] := by decide

theorem test_WN_6 : onFirst (exec (.writen 0x09 2 1) tReady) (fun f => (f.trace, f.fault)) =
    some ([], some (.undefRead (.writen 0x09 2 1) 1)) := by decide

/-! ### READ1 -/

theorem test_R1_1 : onFirst (exec (.read1 0x01) (tRx [0x00, 0x5A])) (fun f => (sent f.trace, f.results)) =
    some ([0x82, 0x00], [.byte 0x5A]) := by decide

theorem test_R1_2 : onFirst (exec (.read1 0x01) (tRx [0xFF, 0x00])) (fun f => f.results) = some [.byte 0x00] := by decide

/-! ### READN -/

/-- RN.7: the last slot keeps its value. -/
theorem test_RN_7 : slotsOf (exec (.readn 0x09 3 2 0) tReady) 2 = some [some 0x11, some 0x22, some 0x33, some 0x77] ∧
    onFirst (exec (.readn 0x09 3 2 0) tReady) (fun f => sent f.trace) = some [0x92, 0x92, 0x92, 0x00] := by decide

/-- RN.4: count 1 with rxAlign 3 merges in the dummy transfer. -/
theorem test_RN_4 : slotsOf (exec (.readn 0x09 1 3 3) (tRx [0x00, 0x3C])) 3 = some [some 0x3D] ∧
    onFirst (exec (.readn 0x09 1 3 3) (tRx [0x00, 0x3C])) (fun f => sent f.trace) = some [0x92, 0x00] := by decide

/-! ### INIT -/

theorem test_I_3 : onFirst (exec .init (tWith { tFramer with cs := Pin.unk })) (fun f => (f.trace, f.results, f.cs, f.rst)) =
    some ([.pinMode 10 .output, .pinWrite 10 .high, .pinMode 9 .input, .pinRead 9 .low, .pinMode 9 .output,
      .pinWrite 9 .high, .delay 50], [.bool true], ⟨.output, .high⟩, ⟨.output, .high⟩) := by decide

theorem test_I_2 : onFirst (exec .init (tWith { tFramer with cs := Pin.unk, lvlIn := [.high] }))
    (fun f => (f.trace, f.results, f.cs, f.rst)) =
    some ([.pinMode 10 .output, .pinWrite 10 .high, .pinMode 9 .input, .pinRead 9 .high], [.bool false],
      ⟨.output, .high⟩, ⟨.input, .unk⟩) := by decide

/-- R154, R58: between two events of INIT, here before the delay, instance 1 makes a whole transaction, and instance 0
stands where it was. -/
theorem test_init_interleaves :
    (match step { tInitTurn .settle (.framer 1 .whole) with
        insts := [tInit .settle, { tOther with inbox := [{ op := 0, reg := 1, value := 0xAB }] }] } with
      | .next t => (t.insts[0]? == some (tInit .settle), (t.insts[1]?.map fun f => sent f.trace))
      | .fault _ | .refused _ => (false, none)) = (true, some [0x02, 0xAB]) := by decide

/-- R154: INIT's delay with the bus owned by another user; the result true waits for DONE (R153). -/
theorem test_init_event : onFirst (step { tInitTurn .settle (.framer 0 .event) with busOwner := some .platform })
    (fun f => (f.trace, f.initAt, f.phase, f.dp.res, f.results)) =
    some ([.delay 50], none, .done, .bool true, []) := by decide

/-! ### The wire forms -/

theorem test_addrW : onFirst (exec (.addrW 0x09) (tMid .writen [0x12, 0x5A] 0 0 0)) (fun f => (f.trace, f.k, f.phase)) =
    some ([.xfer 0x12 0x00], 1, .xfer) := by decide

theorem test_addrR : slotsOf (exec (.addrR 0x09) (tMid .readn [0x92, 0x92, 0x00] 1 0 2)) 2 =
    some [some 0x00, none, none, some 0x77] := by decide

theorem test_dummy : onFirst (exec .dummy (tMid .read1 [0x92, 0x00] 1 0 0)) (fun f => (f.trace, f.dp.res, f.phase)) =
    some ([.xfer 0x00 0x00], .byte 0x00, .desel) := by decide

/-! ### Steps -/

/-- A turn of one event takes WRITE1 up to its Begin: no event yet. -/
theorem test_event_turn_takes : onFirst (step { tWith { tFramer with inbox := [{ op := 0, reg := 1, value := 0xAB }] } with
      turns := [.framer 0 .event] }) (fun f => (f.trace, f.phase, f.dp.plan, f.inbox)) =
    some ([], .acq, [0x02, 0xAB], []) := by decide

/-- R188: during a READN of 2 slots the HOST changes slot 2; it may not change slot 1. -/
theorem test_host_beyond_lent :
    slotsOf (step { tMid .readn [0x92, 0x92, 0x00] 1 0 2 with turns := [.hostBuffer 2 [none, none, some 0x05]] }) 2 =
      some [none, none, some 0x05] ∧
    step { tMid .readn [0x92, 0x92, 0x00] 1 0 2 with turns := [.hostBuffer 2 [none, some 0x05, none]] } =
      .fault .bufferLent := ⟨by decide, rfl⟩

/-- The first column of the table of R175. -/
theorem test_fault_numbers : (FaultCode.notInit .dummy).number = 1 ∧ (FaultCode.bufBounds .dummy 2 1).number = 2 ∧
    (FaultCode.undefRead .dummy 0).number = 3 := by decide

/-- P4: a fault is set, and the next command of that instance takes no step. -/
theorem test_P4 : (match step { tFresh with turns := [.hostIssue 0 { op := 2, reg := 1 }] } with
    | .next s => match step s with
      | .next t => step t
      | .fault r => .fault r
      | .refused r => .refused r
    | .fault r => .fault r
    | .refused r => .refused r) = .fault .framerFaulted := by rfl

/-- A word of the table placed at reset runs in the next step: READ1 before INIT faults (R1.5). -/
theorem test_fetch_command : onFirst (step (State.reset.withFetchWord 8 0x02)) (fun f => f.fault) =
    some (some (.notInit (.read1 0))) := by decide

theorem test_fetch_wire : onFirst (step (State.reset.withFetchWord 8 0x92)) (fun f => (sent f.trace, f.k, f.phase)) =
    some ([0x92], 1, .xfer) := by decide

theorem test_bufs_wf : bufsWf State.reset.bufs = true ∧ bufsWf tBufs = true ∧ Buffer.wf ⟨2, [(2, 0)]⟩ = false ∧
    Buffer.wf ⟨3, [(1, 0), (1, 0)]⟩ = false := by decide

/-! ### The reference responder of 92_eei_decisions.md D19: an oracle for tests, one choice of the draws of R33 -/

/-- `MODE` of the responder. -/
inductive ChipMode where
  | start
  | write (a : RegAddr)
  | read
  deriving DecidableEq, Repr

/-- One chip behind one chip-select: its registers, its mode and its pending byte. -/
structure Responder where
  regs : List Byte
  mode : ChipMode
  pend : Option Byte
  deriving DecidableEq, Repr

/-- `REGS[a]`. -/
def Responder.reg (c : Responder) (a : RegAddr) : Byte := c.regs.getD a.toNat 0

/-- What it does on `CS(LOW)`. -/
def Responder.select (c : Responder) : Responder := { c with mode := .start, pend := none }

/-- What it answers to `XFER(tx)`, and what it becomes. -/
def Responder.xfer (c : Responder) (tx : Byte) : Byte × Responder :=
  match c.mode with
  | .start =>
    if tx.getLsbD 7 then (0x00, { c with mode := .read, pend := some (c.reg (addrReg tx)) })
    else (0x00, { c with mode := .write (addrReg tx) })
  | .read => (c.pend.getD 0x00, { c with pend := if tx = 0x00 then none else some (c.reg (addrReg tx)) })
  | .write a => (0x00, { c with regs := c.regs.set a.toNat tx })

/-- Its answers to the bytes of a frame, and what it becomes. -/
def Responder.frame (c : Responder) : List Byte → List Byte × Responder
  | [] => ([], c)
  | tx :: rest => ((c.xfer tx).1 :: ((c.xfer tx).2.frame rest).1, ((c.xfer tx).2.frame rest).2)

/-- All registers 0x00. -/
def tChip : Responder := ⟨List.replicate 64 0x00, .start, none⟩

/-- P1, steps 2 and 3: the written byte is read back by the frame READ1 sends. -/
theorem test_P1_responder : (tChip.select.frame [0x02, 0x0F]).1 = [0x00, 0x00] ∧
    onFirst (exec (.read1 0x01) (tRx ((tChip.select.frame [0x02, 0x0F]).2.select.frame [0x82, 0x00]).1))
      (fun f => f.results) = some [.byte 0x0F] := by decide

/-- P2, steps 2 and 3: the last byte written is read three times. -/
theorem test_P2_responder : slotsOf (exec (.readn 0x09 3 2 0)
    (tRx ((tChip.select.frame [0x12, 0x11, 0x22, 0x33]).2.select.frame [0x92, 0x92, 0x92, 0x00]).1)) 2 =
    some [some 0x33, some 0x33, some 0x33, some 0x77] := by decide

/-- 2.7: a transfer of one instance is held at its Begin while another user owns the bus. -/
theorem test_bus_held : onFirst (exec (.write1 0x01 0x0F) tOwned) (fun f => (f.trace, f.phase, f.results)) =
    some ([], .acq, []) := by decide

/-! ### Witnesses: for each obligation with hypotheses, data that meet all of them

`test_witness_<Name>` is the witness of Obligations.<Name>; where its clauses have ranges, it stands at their bounds. -/

theorem ready_tReady : tReady.Ready tFramer := ⟨⟨rfl, rfl, rfl⟩, rfl, rfl⟩

theorem free_tOwned : tOwned.Free tFramer := ⟨rfl, rfl, rfl⟩

theorem free_tFresh : tFresh.Free (Framer.construct ⟨10, some 9, tBus⟩) := ⟨rfl, rfl, rfl⟩

/-- No other instance of these states holds a buffer. -/
theorem notLent_of (s : State) (f : Framer) (b : Nat) (hc : s.cur = 0) (hs : s.insts = [f, tOther]) : s.notLent b := by
  intro k g hk hn
  rw [hs] at hk
  match k, hk with
  | 0, _ => exact absurd hc.symm hn
  | 1, h => cases h; rfl
  | k + 2, h => cases h

/-- The invariant, for the states of these tests. -/
theorem inv_of (s : State) (f : Framer) (hs : s.insts = [f, tOther]) (h0 : f.ok s.countMax s.busOwner 0 = true)
    (h1 : tOther.ok s.countMax s.busOwner 1 = true) (ho : s.busOwner = none ∨ s.busOwner = some (.framer 0) ∨ s.busOwner = some .platform)
    (hw : bufsWf s.bufs = true) (hm : 1 ≤ s.countMax) : s.Inv := by
  refine ⟨?_, ?_, hw, hm⟩
  · intro k g hk
    rw [hs] at hk
    match k, hk with
    | 0, h => cases h; exact h0
    | 1, h => cases h; exact h1
    | k + 2, h => cases h
  · intro k hk
    rcases ho with h | h | h
    · rw [h] at hk; cases hk
    · rw [h] at hk; cases hk; simp [hs]
    · rw [h] at hk; cases hk

theorem inv_tReady : tReady.Inv := inv_of _ tFramer rfl (by decide) (by decide) (.inl rfl) (by decide) (by decide)

theorem inv_tMid : (tMid .readn [0x92, 0x92, 0x00] 1 0 2).Inv :=
  inv_of _ (tInside .readn [0x92, 0x92, 0x00] 1 0 2) rfl (by decide) (by decide) (.inr (.inl rfl)) (by decide) (by decide)

theorem test_witness_RxMaskSetsHighBits : (rxMask 7).getLsbD 7 = true ∧ (rxMask 7).getLsbD 6 = false ∧
    (rxMask 0).getLsbD 0 = true := by decide

theorem test_witness_DecodeOfEncode : (Instr.readn 0x3F 65535 0 7).wf 65535 = true ∧
    (Instr.addrR 0x3F).wf 65535 = true := by decide

theorem test_witness_DecodedIsWhatWasWritten :
    decode 4 (.command { op := 3, reg := 63, count := 4, buf := 2, rxAlign := 7 }) = .ok (.readn 0x3F 4 2 7) ∧
    decode 4 (.wire .address 0x92) = .ok (.addrR 0x09) := by decide

/-- One record at the bound of each clause. -/
theorem test_witness_BoundaryRefusals :
    decodeRecord 4 { op := 8 } = .error .badOp ∧ decodeRecord 4 { op := 0, reg := 64 } = .error .regRange ∧
    decodeRecord 4 { op := 1, reg := 63, count := 5 } = .error .countRange ∧
    decodeRecord 4 { op := 1, reg := 63, count := -1 } = .error .countRange ∧
    decodeRecord 4 { op := 3, reg := 63, count := 4, rxAlign := 8 } = .error .alignRange ∧
    decodeRecord 4 { op := 3, reg := 63, count := 4, rxAlign := 7 } = .ok (.readn 0x3F 4 0 7) := by decide

theorem test_witness_FramePlanLengths : planTx [0x5A] (.writen 0x09 1 0) = some [0x12, 0x5A] ∧
    planTx [] (.readn 0x09 1 0 0) = some [0x92, 0x00] ∧ planTx [] (.readn 0x09 0 0 0) = none := by decide

theorem test_witness_MonitorReadsEveryPlannedFrame : planTx [] (.writen 0x09 0 0) = some [0x12] ∧
    planTx [] (.readn 0x09 3 0 0) = some [0x92, 0x92, 0x92, 0x00] := by decide

theorem test_witness_SentinelMeansNotConnected : (9 : Nat) ≠ 255 ∧ (Config.ofNumbers 255 10 9 tBus).rstPin = some 9 ∧
    (Config.ofNumbers 255 10 255 tBus).rstPin = none := by decide

theorem test_witness_Write1SendsAddressThenData : tReady.Ready tFramer := ready_tReady

theorem test_witness_WritenSendsAddressThenSlots : tReady.Ready tFramer ∧ 3 ≤ tReady.countMax ∧
    3 ≤ (bufAt tReady.bufs 0).len ∧ (∀ i < 3, (bufAt tReady.bufs 0).read i = ([0x11, 0x22, 0x33] : List Byte)[i]?) ∧
    (3 = 0 ∨ tReady.notLent 0) :=
  ⟨ready_tReady, by decide, by decide, by decide, .inr (notLent_of _ tFramer 0 rfl rfl)⟩

theorem test_witness_WritenOfZeroSendsAddressOnly : tReady.Ready tFramer := ready_tReady

theorem test_witness_Read1ReturnsSecondByte : tReady.Ready tFramer := ready_tReady

/-- With rxAlign 0 and no value in slot 0, and with rxAlign 7 and slot 0 defined. -/
theorem test_witness_ReadnStoresWithLag : tReady.Ready tFramer ∧ 3 ≤ (bufAt tReady.bufs 2).len ∧
    (bufAt tReady.bufs 2).read 0 = none ∧ tReady.notLent 2 ∧ (bufAt tReady.bufs 3).read 0 = some 0xA5 ∧ tReady.notLent 3 :=
  ⟨ready_tReady, by decide, by decide, notLent_of _ tFramer 2 rfl rfl, by decide, notLent_of _ tFramer 3 rfl rfl⟩

theorem test_witness_ReadnOfZeroDoesNothing : tFresh.Free (Framer.construct ⟨10, some 9, tBus⟩) := free_tFresh

theorem test_witness_AlignerMergesBitwise : (rxMerge (rxMask 3) 0xA5 0x3C).getLsbD 2 = (0xA5#8).getLsbD 2 ∧
    (rxMerge (rxMask 3) 0xA5 0x3C).getLsbD 3 = (0x3C#8).getLsbD 3 := by decide

theorem test_witness_InitWithoutResetPin : { tReady with cur := 1 }.Free tOther ∧ tOther.cfg.rstPin = none :=
  ⟨⟨rfl, rfl, rfl⟩, rfl⟩

/-- With two pins, and with one pin in both configuration fields. -/
theorem test_witness_InitResetPinHigh :
    ((tWith { tFramer with lvlIn := [.high] }).Free { tFramer with lvlIn := [.high] } ∧ tFramer.cfg.rstPin = some 9 ∧
      nextLevel [.high] 0 = .high ∧ (9 : Nat) ≠ tFramer.cfg.csPin) ∧
    ((tWith { Framer.construct ⟨10, some 10, tBus⟩ with lvlIn := [.high] }).Free
        { Framer.construct ⟨10, some 10, tBus⟩ with lvlIn := [.high] } ∧
      (Framer.construct ⟨10, some 10, tBus⟩).cfg.rstPin = some 10) :=
  ⟨⟨⟨rfl, rfl, rfl⟩, rfl, rfl, by decide⟩, ⟨rfl, rfl, rfl⟩, rfl⟩

theorem test_witness_InitResetPinLow :
    (tReady.Free tFramer ∧ tFramer.cfg.rstPin = some 9 ∧ nextLevel tFramer.lvlIn tReady.free = .low) ∧
    ((tWith { Framer.construct ⟨10, some 10, tBus⟩ with lvlIn := [.low] }).Free
        { Framer.construct ⟨10, some 10, tBus⟩ with lvlIn := [.low] } ∧
      (Framer.construct ⟨10, some 10, tBus⟩).cfg.rstPin = some 10) :=
  ⟨⟨⟨rfl, rfl, rfl⟩, rfl, rfl⟩, ⟨rfl, rfl, rfl⟩, rfl⟩

theorem test_witness_InitTrueIffDroveResetHigh : tReady.Free tFramer := ready_tReady.1

theorem test_witness_InitNeverDrivesLow : ∃ t, tReady.insts[tReady.cur]? = some tFramer ∧ exec .init tReady = .next t :=
  ⟨_, rfl, rfl⟩

/-- Every event of INIT, each with the reset pin configured; the first two also without one. -/
theorem test_witness_InitGoesEventByEvent :
    (∀ st, (tInitTurn st (.framer 0 .event)).turns = [.framer 0 .event] ∧
      (tInitTurn st (.framer 0 .event)).insts[0]? = some (tInit st) ∧ (tInit st).fault = none ∧ (tInit st).phase = .idle ∧
      (tInit st).initAt = some st ∧ (tInit st).cfg.rstPin ≠ none) ∧
    { tOther with initAt := some .csHigh }.cfg.rstPin = none ∧ InitStep.csHigh.onCs = true :=
  ⟨fun _ => ⟨rfl, rfl, rfl, rfl, rfl, by simp [tInit, tFramer, Framer.construct]⟩, rfl, rfl⟩

theorem test_witness_CountAboveMaximumRefused : tReady.countMax < 5 := by decide

theorem test_witness_AddrWIsFirstTransferOfWrite :
    (tMid .writen [0x12] 0 0 0).insts[0]? = some (tInside .writen [0x12] 0 0 0) ∧
    (tInside .writen [0x12] 0 0 0).fault = none ∧ (tInside .writen [0x12] 0 0 0).phase = .xfer ∧
    (tInside .writen [0x12] 0 0 0).k = 0 ∧ (tInside .writen [0x12] 0 0 0).dp.opr = .writen ∧
    (tInside .writen [0x12] 0 0 0).dp.plan[0]? = some (addrWrite 0x09) := by
  decide

/-- The priming transfer of a READN, and the transfer that stores into slot 0. -/
theorem test_witness_AddrRIsTransferOfRead :
    (tMid .readn [0x92, 0x92, 0x00] 1 0 2).insts[0]? = some (tInside .readn [0x92, 0x92, 0x00] 1 0 2) ∧
    (tInside .readn [0x92, 0x92, 0x00] 1 0 2).fault = none ∧ (tInside .readn [0x92, 0x92, 0x00] 1 0 2).phase = .xfer ∧
    (tInside .readn [0x92, 0x92, 0x00] 1 0 2).dp.opr = .readn ∧
    (tInside .readn [0x92, 0x92, 0x00] 1 0 2).dp.plan.length = 3 ∧
    (tInside .readn [0x92, 0x92, 0x00] 0 0 2).dp.plan[0]? = some (addrRead 0x09) ∧
    (tInside .readn [0x92, 0x92, 0x00] 0 0 2).stores = false ∧
    (tInside .readn [0x92, 0x92, 0x00] 1 0 2).dp.plan[1]? = some (addrRead 0x09) ∧
    (tInside .readn [0x92, 0x92, 0x00] 1 0 2).stores = true ∧
    0 < (bufAt (tMid .readn [0x92, 0x92, 0x00] 1 0 2).bufs 2).len := by decide

/-- The last transfer of a READN into its last slot, and of a READ1. -/
theorem test_witness_DummyIsLastTransferOfRead :
    (tMid .readn [0x92, 0x92, 0x00] 2 1 2).insts[0]? = some (tInside .readn [0x92, 0x92, 0x00] 2 1 2) ∧
    (tInside .readn [0x92, 0x92, 0x00] 2 1 2).fault = none ∧ (tInside .readn [0x92, 0x92, 0x00] 2 1 2).phase = .xfer ∧
    (tInside .readn [0x92, 0x92, 0x00] 2 1 2).dp.opr = .readn ∧
    (tInside .readn [0x92, 0x92, 0x00] 2 1 2).dp.plan.length = 3 ∧
    (tInside .readn [0x92, 0x92, 0x00] 2 1 2).dp.plan[2]? = some 0x00#8 ∧
    (tInside .readn [0x92, 0x92, 0x00] 2 1 2).stores = true ∧
    1 < (bufAt (tMid .readn [0x92, 0x92, 0x00] 2 1 2).bufs 2).len ∧
    (tInside .read1 [0x92, 0x00] 1 0 0).dp.plan[1]? = some 0x00#8 ∧
    (tMid .read1 [0x92, 0x00] 1 0 0).insts[0]? = some (tInside .read1 [0x92, 0x00] 1 0 0) := by decide

/-- Outside a frame, and in a frame at another byte. -/
theorem test_witness_WireByteOutOfPlaceRefused : (tReady.insts[0]? = some tFramer ∧ tFramer.fault = none ∧ tFramer.phase ≠ .xfer) ∧
    (tInside .writen [0x12] 0 0 0).fault = none ∧
    (tInside .writen [0x12] 0 0 0).nextWire ≠ some (encode (.addrW 0x0A)) ∧
    (tInside .writen [0x12, 0x00] 1 0 0).nextWire ≠ some (encode .dummy) := by decide

theorem test_witness_TransferBeforeInitFaults : tFresh.Free (Framer.construct ⟨10, some 9, tBus⟩) ∧
    (Instr.writen 0x09 0 0).opensTransaction = true ∧ (Instr.writen 0x09 0 0).wf tFresh.countMax = true ∧
    (Framer.construct ⟨10, some 9, tBus⟩).cs ≠ Pin.deselected := ⟨free_tFresh, by decide, by decide, by decide⟩

/-- WN.5 and RN.17. -/
theorem test_witness_CountAboveBufferFaults : tReady.Free tFramer ∧ tFramer.cs = Pin.deselected ∧
    (Instr.writen 0x09 4 0).wf tReady.countMax = true ∧ (bufAt tReady.bufs 0).len < 4 ∧
    (Instr.readn 0x09 3 1 0).wf tReady.countMax = true ∧ (bufAt tReady.bufs 1).len < 3 :=
  ⟨ready_tReady.1, rfl, by decide, by decide, by decide, by decide⟩

/-- WN.6 (slot 1 is the lowest without a value) and RN.18. -/
theorem test_witness_UndefinedSlotFaults : tReady.Free tFramer ∧ tFramer.cs = Pin.deselected ∧ 2 ≤ tReady.countMax ∧
    (2 ≤ (bufAt tReady.bufs 1).len ∧ (bufAt tReady.bufs 1).read 1 = none ∧ (bufAt tReady.bufs 1).read 0 ≠ none) ∧
    2 ≤ (bufAt tReady.bufs 2).len ∧ (bufAt tReady.bufs 2).read 0 = none :=
  ⟨ready_tReady.1, rfl, by decide, by decide, by decide, by decide⟩

/-- Each of the three codes. -/
theorem test_witness_FaultCodeSaysCause :
    (tFresh.Free (Framer.construct ⟨10, some 9, tBus⟩) ∧
      onFirst (exec (.read1 1) tFresh) (fun f => f.fault) = some (some (.notInit (.read1 1)))) ∧
    tReady.Free tFramer ∧
    onFirst (exec (.writen 0x09 4 0) tReady) (fun f => f.fault) = some (some (.bufBounds (.writen 0x09 4 0) 4 3)) ∧
    onFirst (exec (.readn 0x09 1 2 7) tReady) (fun f => f.fault) = some (some (.undefRead (.readn 0x09 1 2 7) 0)) :=
  ⟨⟨free_tFresh, by decide⟩, ready_tReady.1, by decide, by decide⟩

theorem test_witness_FaultedFramerTakesNoStep : (tWith tFaulted).insts[(tWith tFaulted).cur]? = some tFaulted ∧
    tFaulted.fault ≠ none ∧ (Instr.init).wf (tWith tFaulted).countMax = true := by decide

/-- Instance 1 moves while instance 0 holds a fault. -/
theorem test_witness_FaultIsSticky : ∃ t, step { tWith tFaulted with turns := [.framer 1 .whole] } = .next t ∧
    (tWith tFaulted).insts[0]? = some tFaulted ∧ tFaulted.fault ≠ none := ⟨_, rfl, rfl, by decide⟩

theorem test_witness_FaultIsPrecise : ∃ t f', exec (.read1 1) tFresh = .next t ∧ t.insts[tFresh.cur]? = some f' ∧
    f'.fault ≠ none := ⟨_, _, rfl, rfl, by decide⟩

/-- Every transfer operation, with count 0 where it has one. -/
theorem test_witness_TransferHeldWhileBusOwned : tOwned.Free tFramer ∧ tOwned.busOwner ≠ none ∧
    tOwned.Passes tFramer (.write1 0x01 0xAB) ∧ tOwned.Passes tFramer (.read1 0x01) ∧
    tOwned.Passes tFramer (.writen 0x09 0 0) ∧ tOwned.Passes tFramer (.writen 0x09 3 0) ∧
    tOwned.Passes tFramer (.readn 0x09 1 3 7) :=
  ⟨free_tOwned, by decide, rfl, rfl, ⟨rfl, by decide, by decide, by decide, .inl rfl⟩,
    ⟨rfl, by decide, by decide, by decide, .inr (notLent_of _ tFramer 0 rfl rfl)⟩,
    ⟨rfl, by decide, by decide, by decide, .inr (by decide), notLent_of _ tFramer 3 rfl rfl⟩⟩

theorem test_witness_HeldTransferGoesOnUnchanged : ∃ t, tOwned.Free tFramer ∧ tOwned.Passes tFramer (.write1 0x01 0xAB) ∧
    tOwned.busOwner ≠ none ∧ tOwned.turns = [] ∧ exec (.write1 0x01 0xAB) tOwned = .next t :=
  ⟨_, free_tOwned, rfl, by decide, rfl, rfl⟩

theorem test_witness_BusyFramerHoldsCommand : (tMid .readn [0x92, 0x92, 0x00] 1 0 2).insts[0]? =
      some (tInside .readn [0x92, 0x92, 0x00] 1 0 2) ∧ (tInside .readn [0x92, 0x92, 0x00] 1 0 2).fault = none ∧
    (tInside .readn [0x92, 0x92, 0x00] 1 0 2).busy = true ∧ Instr.init.isOperation = true := by decide

/-- One state for each clause. -/
theorem test_witness_PlatformAcquiresAndReleases : tReady.busOwner = none ∧ tOwned.busOwner ≠ none ∧
    tOwned.busOwner = some .platform := by decide

/-- A buffer that no call holds; a call that holds slots 0 and 1, left as they are, and slot 1 changed. -/
theorem test_witness_HostDefinesBuffer :
    (∀ f ∈ tReady.insts, f.holds 5 = true → ∀ i < f.dp.cnt, ([] : List (Option Byte))[i]? = some ((bufAt tReady.bufs 5).read i)) ∧
    (∃ f ∈ (tMid .readn [0x92, 0x92, 0x00] 1 0 2).insts, f.holds 2 = true ∧ f.dp.cnt = 2) ∧
    (∀ f ∈ (tMid .readn [0x92, 0x92, 0x00] 1 0 2).insts, f.holds 2 = true →
      ∀ i < f.dp.cnt, [none, none, some 0x05#8][i]? = some ((bufAt tBufs 2).read i)) ∧
    ∃ f ∈ (tMid .readn [0x92, 0x92, 0x00] 1 0 2).insts, f.holds 2 = true ∧
      ∃ i < f.dp.cnt, [none, some 0x05#8, none][i]? ≠ some ((bufAt tBufs 2).read i) := by decide

theorem test_witness_HostIssuesCommand : { tReady with turns := [.hostIssue 1 { op := 4 }] }.turns =
    [.hostIssue 1 { op := 4 }] ∧ tReady.insts[1]? = some tOther := by decide

/-- Both clauses: no turn given, and a turn of instance 0. -/
theorem test_witness_StepRunsDecodedCommand :
    { tFramer with inbox := [{ op := 2, reg := 1 }] }.busy = false ∧
    decode 4 (.command { op := 2, reg := 1 }) = .ok (.read1 1) ∧
    (tWith { tFramer with inbox := [{ op := 2, reg := 1 }] }).turns = [] ∧
    (tWith { tFramer with inbox := [{ op := 2, reg := 1 }] }).insts[0]? =
      some { tFramer with inbox := [{ op := 2, reg := 1 }] } := by decide

theorem test_witness_StepRunsDecodedWireByte : (tInside .readn [0x92, 0x92, 0x00] 2 1 2).phase = .xfer ∧
    (tInside .readn [0x92, 0x92, 0x00] 2 1 2).nextWire = some (.wire .readEnd 0x00) ∧
    decode 4 (.wire .readEnd 0x00) = .ok .dummy ∧
    (tMid .readn [0x92, 0x92, 0x00] 2 1 2).insts[0]? = some (tInside .readn [0x92, 0x92, 0x00] 2 1 2) := by decide

/-- Both clauses: no turn given, and a turn of either length. -/
theorem test_witness_StepRefusesBadCommand :
    { tFaulted with inbox := [{ op := 2, reg := 64 }] }.busy = false ∧
    decode 4 (.command { op := 2, reg := 64 }) = .error .regRange ∧
    (tWith { tFaulted with inbox := [{ op := 2, reg := 64 }] }).turns = [] ∧
    (tWith { tFaulted with inbox := [{ op := 2, reg := 64 }] }).insts[0]? =
      some { tFaulted with inbox := [{ op := 2, reg := 64 }] } := by decide

/-- INIT, and a transfer that passes its checks. -/
theorem test_witness_EventTurnTakesCommand :
    (tFramer.fault = none ∧ tFramer.busy = false ∧ decode 4 (.command { op := 4 }) = .ok .init) ∧
    decode 4 (.command { op := 0, reg := 1, value := 0xAB }) = .ok (.write1 0x01 0xAB) ∧
    { tWith { tFramer with inbox := [{ op := 0, reg := 1, value := 0xAB }] } with cur := 0 }.Passes
      { tFramer with inbox := [{ op := 0, reg := 1, value := 0xAB }] } (.write1 0x01 0xAB) :=
  ⟨⟨rfl, rfl, rfl⟩, rfl, rfl⟩

/-- Inside a frame, inside INIT, and the turn that takes a command. -/
theorem test_witness_EventByEventIsWhole :
    (∃ t g, step { tMid .readn [0x92, 0x92, 0x00] 1 0 2 with turns := [.framer 0 .event] } = .next t ∧
      t.insts[0]? = some g ∧ g.busy = true) ∧
    (∃ t g, step (tInitTurn .csMode (.framer 0 .event)) = .next t ∧ t.insts[0]? = some g ∧ g.busy = true) ∧
    ∃ t g, step { tWith { tFramer with inbox := [{ op := 4 }] } with turns := [.framer 0 .event] } = .next t ∧
      t.insts[0]? = some g ∧ g.busy = true :=
  ⟨⟨_, _, rfl, rfl, rfl⟩, ⟨_, _, rfl, rfl, rfl⟩, _, _, rfl, rfl, rfl⟩

theorem test_witness_TransferFrame : ∃ t, tReady.insts[tReady.cur]? = some tFramer ∧ exec (.read1 1) tReady = .next t :=
  ⟨_, rfl, rfl⟩

/-- A storing form and a form that stores nothing. -/
theorem test_witness_BufferFrame : (∃ t, exec (.readn 0x09 3 2 0) tReady = .next t) ∧
    ∃ t, exec (.writen 0x09 3 0) tReady = .next t := ⟨⟨_, rfl⟩, ⟨_, rfl⟩⟩

theorem test_witness_InitFrame : ∃ t, tReady.insts[tReady.cur]? = some tFramer ∧ exec .init tReady = .next t := ⟨_, rfl, rfl⟩

theorem test_witness_StepKeepsConfigurationAndHistory :
    ∃ t, step { tReady with turns := [.framer 0 .whole] } = .next t ∧ tReady.insts[0]? = some tFramer := ⟨_, rfl, rfl⟩

theorem test_witness_ConstructionState : Config.cfgs[1]? = some ⟨8, none, Config.busSettings⟩ := rfl

theorem test_witness_ConstructionMeetsInvariant : 1 ≤ 1 := le_refl 1

/-- From an idle state, from inside a frame, and from inside INIT. -/
theorem test_witness_StepKeepsInvariant : (tReady.Inv ∧ ∃ t, step tReady = .next t) ∧
    ((tMid .readn [0x92, 0x92, 0x00] 1 0 2).Inv ∧ ∃ t, step (tMid .readn [0x92, 0x92, 0x00] 1 0 2) = .next t) ∧
    (tInitTurn .rstRead (.framer 0 .event)).Inv ∧ ∃ t, step (tInitTurn .rstRead (.framer 0 .event)) = .next t :=
  ⟨⟨inv_tReady, _, rfl⟩, ⟨inv_tMid, _, rfl⟩,
    inv_of _ (tInit .rstRead) rfl (by decide) (by decide) (.inl rfl) (by decide) (by decide), _, rfl⟩

theorem test_witness_AtMostOneChipSelectLow : (tMid .readn [0x92, 0x92, 0x00] 1 0 2).Inv ∧
    (tInside .readn [0x92, 0x92, 0x00] 1 0 2).cs.lvl = .low := ⟨inv_tMid, rfl⟩

/-- An instance owns the bus, and another bus user does, with its End and with a transfer held in ACQ. -/
theorem test_witness_TransactionsDoNotInterleave :
    (∃ t, (tMid .readn [0x92, 0x92, 0x00] 1 0 2).Inv ∧ step (tMid .readn [0x92, 0x92, 0x00] 1 0 2) = .next t ∧
      (tMid .readn [0x92, 0x92, 0x00] 1 0 2).busOwner = some (.framer 0) ∧
      (tMid .readn [0x92, 0x92, 0x00] 1 0 2).insts[1]? = some tOther) ∧
    (∃ t, { tOwned with turns := [.platformEnd] }.Inv ∧ step { tOwned with turns := [.platformEnd] } = .next t) ∧
    ∃ t, { tOwned with insts := [tAcq, tOther] }.Inv ∧ step { tOwned with insts := [tAcq, tOther] } = .next t ∧
      tOwned.busOwner = some .platform :=
  ⟨⟨_, inv_tMid, rfl, rfl, rfl⟩,
    ⟨_, inv_of _ tFramer rfl (by decide) (by decide) (.inr (.inr rfl)) (by decide) (by decide), rfl⟩,
    _, inv_of _ tAcq rfl (by decide) (by decide) (.inr (.inr rfl)) (by decide) (by decide), rfl, rfl⟩

theorem test_witness_InitialisedStaysInitialised : ∃ t, step tReady = .next t ∧ tReady.insts[0]? = some tFramer ∧
    tFramer.cfg.rstPin ≠ some tFramer.cfg.csPin ∧ tFramer.initialised = true := ⟨_, rfl, rfl, by decide, by decide⟩

theorem test_witness_SingleFormsMatchBlockForms : tReady.Ready tFramer ∧ 1 ≤ tReady.countMax ∧
    1 ≤ (bufAt tReady.bufs 3).len ∧ tReady.notLent 3 ∧ (bufAt tReady.bufs 3).read 0 = some 0xA5 :=
  ⟨ready_tReady, by decide, by decide, notLent_of _ tFramer 3 rfl rfl, by decide⟩

end Sys2Proof.Tests
end

