-- ==== Sys2Proof/Proofs/Scope.lean ====
section
/-! PROOF. The statements on the grain of a turn (00_scope.md R9): one event of an operation, and the entry of a command,
go the same way as the whole operation; and the numeric sentinel of the reset pin. -/

namespace Sys2Proof.Machine

variable {s t : State} {f : Framer} {v w : View} {i : Instr}

/-! ### The view of the acting framer -/

/-- w is a view the acting framer of s can have: its own index, the parameter, and the buffers lent to the others are
those of s. -/
structure State.Shows (s : State) (w : View) : Prop where
  me : w.me = s.cur
  countMax : w.countMax = s.countMax
  lent : w.lent = lentExcept s.cur 0 s.insts

theorem shows_view (s : State) (f : Framer) : s.Shows (s.view f) := ⟨rfl, rfl, rfl⟩

/-- What a framer itself has become does not show in what is lent to the others. -/
theorem lentExcept_set (k j m : Nat) (fs : List Framer) (g : Framer) (h : j + m = k) :
    lentExcept k j (fs.set m g) = lentExcept k j fs := by
  induction fs generalizing j m with
  | nil => rfl
  | cons x xs ih =>
    cases m with
    | zero => simp [lentExcept, show j = k by omega]
    | succ m => simp only [List.set_cons_succ, lentExcept, ih (j + 1) m (by omega)]

/-- A framer that was put back sees what it put back. -/
theorem view_put (h : s.Shows w) : (s.put w).view w.inst = w := by
  obtain ⟨hme, hmax, hlent⟩ := h
  have hset : lentExcept s.cur 0 (s.insts.set s.cur w.inst) = w.lent :=
    (lentExcept_set _ _ _ _ _ (Nat.zero_add _)).trans hlent.symm
  rw [State.view, put_insts, put_cur, hset, ← hme, put_countMax, ← hmax]
  rfl

/-- Only the last view put back counts. -/
theorem put_put (s : State) (v w : View) : (s.put v).put w = s.put w := by
  simp only [State.put, List.set_set]

/-- Putting back what a framer sees changes nothing. -/
theorem put_view (h : s.insts[s.cur]? = some f) : s.put (s.view f) = s := by
  obtain ⟨hl, rfl⟩ := List.getElem?_eq_some_iff.1 h
  simp only [State.put, view_inst, List.set_getElem_self]
  rfl

/-! ### A turn of a framer in an operation -/

theorem carryOn_unfaulted (act : View → View) (hf : s.insts[s.cur]? = some f) (hn : f.fault = none) :
    s.carryOn act = .next (s.put (act (s.view f))) :=
  onSelf_next_of hf (by simp [hn])

/-- A whole turn of a framer that has become the view w, inside an operation, carries w to the return. -/
theorem turnWhole_put (hf : s.insts[s.cur]? = some f) (hw : s.Shows w) (hn : w.inst.fault = none)
    (hb : w.inst.busy = true) : (s.put w).turnWhole = .next (s.put w.finish) := by
  have hat : (s.put w).insts[(s.put w).cur]? = some w.inst := put_at w hf
  unfold State.turnWhole
  simp only [hat, hb, if_true, carryOn_unfaulted _ hat hn, view_put hw, put_put]

/-- One event changes neither what a framer cannot see nor its fault register. -/
theorem advance_shows (h : s.Shows v) : s.Shows v.advance ∧ v.advance.inst.fault = v.inst.fault := by
  obtain ⟨hme, hmax, hlent⟩ := h
  cases hp : v.inst.phase <;> simp only [View.advance, hp]
  case idle =>
    rcases advanceInit_moved v with ⟨_, e⟩ | ⟨st, _, hm⟩
    · rw [e]
      exact ⟨⟨hme, hmax, hlent⟩, rfl⟩
    · have hk := hm.kept
      exact ⟨⟨hk.me.trans hme, hk.countMax.trans hmax, hk.lent.trans hlent⟩, hk.fault⟩
  case xfer =>
    have hk := xferStep_kept v
    exact ⟨⟨hk.me.trans hme, hk.countMax.trans hmax, hk.lent.trans hlent⟩, hk.fault⟩
  case acq =>
    unfold View.acquire
    split <;> exact ⟨⟨hme, hmax, hlent⟩, rfl⟩
  case sel => exact ⟨⟨hme, hmax, hlent⟩, by simp [View.select, View.csWrite]⟩
  case desel => exact ⟨⟨hme, hmax, hlent⟩, by simp [View.deselect, View.csWrite]⟩
  case faulted => exact ⟨⟨hme, hmax, hlent⟩, trivial⟩
  case rel | done => exact ⟨⟨hme, hmax, hlent⟩, rfl⟩

/-- The next byte of a frame is a byte of the wire. -/
theorem nextWire_isWire {c : Code} (h : f.nextWire = some c) : ∃ p b, c = .wire p b := by
  unfold Framer.nextWire at h
  split at h
  · cases h
  · cases ho : f.dp.opr <;> simp only [ho] at h
    case init => cases h
    case write1 | writen | read1 | readn => split at h <;> cases h <;> exact ⟨_, _, rfl⟩

/-- A byte of the wire decodes to no operation. -/
theorem decodeWire_not_operation {p : WirePos} {b : Byte} (h : decodeWire p b = .ok i) : i.isOperation = false := by
  cases p <;> simp only [decodeWire] at h
  case address =>
    split at h
    · cases h
    · split at h <;> cases h <;> rfl
  case readEnd => split at h <;> cases h; rfl

/-- Inside an operation an instruction that is none of the five operations makes the next transfer. -/
theorem exec_wire_advances (hf : s.insts[s.cur]? = some f) (hb : f.busy = true) (hi : i.isOperation = false)
    (h : exec i s = .next t) : f.fault = none ∧ t = s.put (s.view f).advance := by
  obtain ⟨g, w, hg, rfl, hd⟩ := exec_next h
  cases hf.symm.trans hg
  cases hd with
  | sent _ hn hp => exact ⟨hn, by simp only [View.advance, view_inst, hp]⟩
  | held _ _ _ hop => rw [hi] at hop; cases hop
  | raised _ _ _ hidle | accepted _ _ _ hidle | readNone _ _ _ _ hidle | initialised _ hidle =>
    rw [hb] at hidle; cases hidle

/-- A one-event turn inside an operation makes one event of it, also where that event is a decoded wire byte. -/
theorem turnEvent_busy (hf : s.insts[s.cur]? = some f) (hb : f.busy = true) (h : s.turnEvent = .next t) :
    f.fault = none ∧ t = s.put (s.view f).advance := by
  have hcarry : s.carryOn View.advance = .next t → f.fault = none ∧ t = s.put (s.view f).advance := by
    intro h
    cases hn : f.fault with
    | none => rw [carryOn_unfaulted _ hf hn] at h; cases h; exact ⟨rfl, rfl⟩
    | some c => rw [State.carryOn, onSelf_fault_of hf (r := .framerFaulted) (by simp [hn])] at h; cases h
  simp only [State.turnEvent, hf, hb, if_true] at h
  split at h
  · split at h
    · exact hcarry h
    · rename_i c hc
      obtain ⟨p, b, rfl⟩ := nextWire_isWire hc
      split at h
      · cases h
      · rename_i i hi
        exact exec_wire_advances hf hb (decodeWire_not_operation hi) h
  · exact hcarry h

/-! ### The entry of a command -/

/-- The entry of an operation, up to its first event; what is no operation has none. -/
def entryOf : Instr → View → Host.Outcome View Fault Refusal
  | .write1 r x => enterWrite1 r x
  | .writen r n b => enterWriten r n b
  | .read1 r => enterRead1 r
  | .readn r n b ra => enterReadn r n b ra
  | .init => enterInit
  | .reserved5 | .reserved6 | .reserved7 => fun _ => .refused (.rejected .badOp)
  | .addrW _ | .addrR _ | .dummy => fun _ => .refused .notNextInFrame

/-- Taking a well-formed operation is its guarded entry. -/
theorem issue_eq_entryOf (hi : i.isOperation = true) (hc : i.wf s.countMax = true) :
    issue i s = s.onSelf fun v => v.guarded i (entryOf i) := by
  cases i with
  | write1 | read1 | init => rfl
  | writen | readn => exact if_pos hc
  | reserved5 | reserved6 | reserved7 | addrW | addrR | dummy => cases hi

/-- Running a well-formed operation is its guarded entry, carried to the return. -/
theorem exec_eq_entryOf (hi : i.isOperation = true) (hc : i.wf s.countMax = true) :
    exec i s = s.onSelf fun v => v.guarded i (thenFinish (entryOf i)) := by
  cases i with
  | write1 | read1 | init => rfl
  | writen | readn => exact if_pos hc
  | reserved5 | reserved6 | reserved7 | addrW | addrR | dummy => cases hi

/-- The views the entry of an operation can leave v in. -/
inductive Entered (v : View) : View → Prop where
  | raised (c : FaultCode) : Entered v (v.raise c)
  | accepted (d : Datapath) : Entered v (v.accept d)
  | readNone (d : Datapath) : Entered v ((v.setDp d).goto .done)
  | initialised : Entered v v.beginInit

theorem enter_entered {cmd : Instr} {n b : Nat} {reads : List Nat} {d : Datapath}
    (h : v.enter cmd n b reads d = .next w) : Entered v w := by
  rcases enter_cases v cmd n b reads d with ⟨c, _, e⟩ | ⟨_, e | e⟩ <;> rw [e] at h <;> cases h
  · exact .raised c
  · exact .accepted d

theorem entryOf_entered (h : entryOf i v = .next w) : Entered v w := by
  cases i with
  | write1 | writen | read1 => exact enter_entered h
  | readn r n b ra =>
    simp only [entryOf, enterReadn] at h
    split at h
    · cases h; exact .readNone _
    · exact enter_entered h
  | init => cases h; exact .initialised
  | reserved5 | reserved6 | reserved7 | addrW | addrR | dummy => cases h

/-- An entry changes nothing a framer cannot see, and leaves it busy only when it raises no fault. -/
theorem Entered.shows (h : Entered v w) (hv : s.Shows v) (hn : v.inst.fault = none) (hb : w.inst.busy = true) :
    s.Shows w ∧ w.inst.fault = none := by
  obtain ⟨hme, hmax, hlent⟩ := hv
  cases h with
  | raised => cases hb
  | accepted | readNone | initialised => exact ⟨⟨hme, hmax, hlent⟩, hn⟩

theorem opensTransaction_isOperation (h : i.opensTransaction = true) : i.isOperation = true := by
  cases i with
  | write1 | writen | read1 | readn => rfl
  | init | reserved5 | reserved6 | reserved7 | addrW | addrR | dummy => cases h

/-- An idle framer takes well-formed operations only. -/
theorem issue_next_isOperation (hf : s.insts[s.cur]? = some f) (hb : f.busy = false) (h : issue i s = .next t) :
    i.isOperation = true ∧ i.wf s.countMax = true := by
  have hi : i.isOperation = true := by
    obtain ⟨g, w, hg, _, hd⟩ := issue_next h
    cases hf.symm.trans hg
    cases hd with
    | held _ _ _ hheld => exact hheld
    | raised _ _ _ _ hopens | accepted _ _ _ _ _ hopens => exact opensTransaction_isOperation hopens
    | readNone | initialised => rfl
    | sent _ _ hp => simp only [Framer.busy, hp] at hb; cases hb
  refine ⟨hi, ?_⟩
  cases i with
  | writen | readn =>
    by_contra hc
    exact absurd (h.symm.trans (if_neg hc)) nofun
  | write1 | read1 | init => rfl
  | reserved5 | reserved6 | reserved7 | addrW | addrR | dummy => cases hi

/-- A command taken up to its first event, and the same command run to its return, enter alike. -/
theorem issue_next_exec (hf : s.insts[s.cur]? = some f) (hb : f.busy = false) (h : issue i s = .next t) :
    ∃ w, f.fault = none ∧ Entered (s.view f) w ∧ t = s.put w ∧ exec i s = .next (s.put w.finish) := by
  obtain ⟨hi, hc⟩ := issue_next_isOperation hf hb h
  rw [issue_eq_entryOf hi hc] at h
  obtain ⟨g, w, hg, hw, rfl⟩ := onSelf_next h
  cases hf.symm.trans hg
  rcases guarded_cases (s.view f) i (entryOf i) with ⟨_, e⟩ | ⟨_, hbusy, _⟩ | ⟨hn, _, e⟩
  · rw [e] at hw; cases hw
  · rw [view_inst, hb] at hbusy; cases hbusy
  · rw [e] at hw
    refine ⟨w, hn, entryOf_entered hw, rfl, ?_⟩
    rw [exec_eq_entryOf hi hc]
    refine onSelf_next_of hf ?_
    rw [guarded_free _ _ _ hn hb, thenFinish, hw]

/-! ### A turn of an idle framer -/

variable {r : Record} {rest : List Record}

theorem turnEvent_idle (hf : s.insts[s.cur]? = some f) (hb : f.busy = false) : s.turnEvent = s.fetch f issue := by
  simp [State.turnEvent, hf, hb]

theorem turnWhole_idle (hf : s.insts[s.cur]? = some f) (hb : f.busy = false) : s.turnWhole = s.fetch f exec := by
  simp [State.turnWhole, hf, hb]

theorem fetch_cons (run : Instr → State → Host.Outcome State Fault Refusal) (hr : f.inbox = r :: rest)
    (hd : decode s.countMax (.command r) = .ok i) : s.fetch f run = run i s.popInbox := by
  simp only [State.fetch, hr, hd]

/-- An idle framer's turn passes, or runs its next command, decoded. -/
theorem fetch_next {run : Instr → State → Host.Outcome State Fault Refusal} (h : s.fetch f run = .next t) :
    t = s ∨ ∃ r rest i, f.inbox = r :: rest ∧ decode s.countMax (.command r) = .ok i ∧ run i s.popInbox = .next t := by
  unfold State.fetch at h
  split at h
  · split at h <;> cases h
    exact .inl rfl
  · rename_i r rest hr
    split at h
    · cases h
    · rename_i i hd
      exact .inr ⟨r, rest, i, hr, hd, h⟩

/-! ### One event first, and then to the return -/

/-- A one-event turn that leaves the framer in an operation does not change what a whole turn comes to. -/
theorem turnWhole_after_turnEvent {g : Framer} (h : s.turnEvent = .next t) (hg : t.insts[s.cur]? = some g)
    (hgb : g.busy = true) : t.turnWhole = s.turnWhole := by
  cases hf : s.insts[s.cur]? with
  | none => simp only [State.turnEvent, hf] at h; cases h
  | some f =>
    cases hb : f.busy with
    | true =>
      obtain ⟨hn, rfl⟩ := turnEvent_busy hf hb h
      cases (put_at _ hf).symm.trans hg
      obtain ⟨hsh, hfault⟩ := advance_shows (shows_view s f)
      calc (s.put (s.view f).advance).turnWhole
          = .next (s.put (s.view f).advance.finish) := turnWhole_put hf hsh (hfault.trans hn) hgb
        _ = .next (s.put (s.view f).finish) := by rw [finish_advance]
        _ = (s.put (s.view f)).turnWhole := (turnWhole_put hf (shows_view s f) hn hb).symm
        _ = s.turnWhole := by rw [put_view hf]
    | false =>
      rw [turnEvent_idle hf hb] at h
      rw [turnWhole_idle hf hb]
      rcases fetch_next h with rfl | ⟨r, rest, i, hr, hd, hi⟩
      · cases hf.symm.trans hg
        rw [hb] at hgb; cases hgb
      · have hf' := popInbox_at hf
        obtain ⟨w, hn, hent, rfl, hex⟩ := issue_next_exec hf' hb hi
        cases (put_at w hf').symm.trans hg
        obtain ⟨hsh, hfault⟩ := hent.shows (shows_view _ _) hn hgb
        rw [turnWhole_put hf' hsh hfault hgb, fetch_cons _ hr hd, hex]

/-- A one-event turn changes neither the turns to come nor which framer moves. -/
theorem turnEvent_next_cur (h : s.turnEvent = .next t) : t.cur = s.cur ∧ t.turns = s.turns := by
  cases turnEvent_moved (u := some (.framer s.cur .event)) h with
  | passed | acted | fetched => exact ⟨rfl, rfl⟩
  | issued _ _ hu | placed _ _ hu | acquired hu | released hu => cases hu

/-- Settles O46: each event leaves what the operation comes to (`finish_advance`), and taking a command is its entry alone. -/
theorem eventByEventIsWhole : Obligations.EventByEventIsWhole := by
  intro s t k g h hg hgb
  have hev : ({ s with turns := [], cur := k } : State).turnEvent = .next t := h
  obtain ⟨hcur, hturns⟩ := turnEvent_next_cur hev
  have ht : ({ t with turns := [], cur := k } : State) = t := by
    cases t; cases hcur; cases hturns; rfl
  show ({ t with turns := [], cur := k } : State).turnWhole = ({ s with turns := [], cur := k } : State).turnWhole
  rw [ht]
  exact turnWhole_after_turnEvent hev hg hgb

/-! ### The turn that takes a command -/

/-- A transfer that passes its checks is a well-formed operation. -/
theorem State.Passes.isOperation (h : s.Passes f i) : i.isOperation = true ∧ i.wf s.countMax = true := by
  cases i with
  | write1 | read1 => exact ⟨rfl, rfl⟩
  | writen =>
    obtain ⟨_, hc, _⟩ := h
    exact ⟨rfl, decide_eq_true hc⟩
  | readn =>
    obtain ⟨_, _, hc, _⟩ := h
    exact ⟨rfl, decide_eq_true hc⟩
  | init | reserved5 | reserved6 | reserved7 | addrW | addrR | dummy => exact h.elim

/-- A transfer that passes its checks is accepted. -/
theorem State.Passes.accepted (h : s.Passes f i) :
    ∃ d, entryOf i (s.view f) = .next ((s.view f).accept d) := by
  cases i with
  | write1 | read1 => exact ⟨_, enter_pass _ _ _ _ _ _ h (Nat.zero_le _) nofun (.inl rfl)⟩
  | writen r n b =>
    obtain ⟨hcs, _, hlen, hdef, hl⟩ := h
    exact ⟨_, enter_pass _ _ _ _ _ _ hcs hlen (fun i hi => hdef i (List.mem_range.1 hi))
      (hl.imp_right (lent_of_notLent b))⟩
  | readn r n b ra =>
    obtain ⟨hcs, hn, _, hlen, hdef, hl⟩ := h
    have hreads : ∀ i ∈ alignReads ra, (bufAt s.bufs b).read i ≠ none := by
      intro i hi
      unfold alignReads at hi
      split at hi
      · cases hi
      · rename_i hra
        rw [List.mem_singleton.1 hi]
        exact hdef.resolve_left hra
    have hentry : entryOf (.readn r n b ra) (s.view f) = (s.view f).enter (.readn r n b ra) n b (alignReads ra)
        (loadReadn r n b ra ((bufAt s.bufs b).read 0) f.dp) := if_neg (by omega)
    rw [hentry]
    exact ⟨_, enter_pass _ _ _ _ _ _ hcs hlen hreads (.inr (lent_of_notLent b hl))⟩
  | init | reserved5 | reserved6 | reserved7 | addrW | addrR | dummy => exact h.elim

/-- The entry checks do not look at the queue. -/
theorem State.Passes.popInbox (h : s.Passes f i) :
    s.popInbox.Passes { f with inbox := f.inbox.tail } i := by
  have hl : ∀ b, s.notLent b → s.popInbox.notLent b := fun b hb k g hg hk =>
    hb k g ((popInbox_other (s := s) k hk).symm.trans hg) hk
  cases i with
  | write1 | read1 => exact h
  | writen r n b =>
    obtain ⟨hcs, hc, hlen, hdef, hlent⟩ := h
    exact ⟨hcs, hc, hlen, hdef, hlent.imp_right (hl b)⟩
  | readn r n b ra =>
    obtain ⟨hcs, hn, hc, hlen, hdef, hlent⟩ := h
    exact ⟨hcs, hn, hc, hlen, hdef, hl b hlent⟩
  | init | reserved5 | reserved6 | reserved7 | addrW | addrR | dummy => exact h.elim

/-- Taking an operation that its entry lets pass, at a framer with no fault and in no operation. -/
theorem issue_of_entryOf (hi : i.isOperation = true) (hc : i.wf s.countMax = true) (hf : s.insts[s.cur]? = some f)
    (hn : f.fault = none) (hb : f.busy = false) (hw : entryOf i (s.view f) = .next w) : issue i s = .next (s.put w) := by
  rw [issue_eq_entryOf hi hc]
  exact onSelf_next_of hf (by rw [guarded_free _ _ _ hn hb, hw])

/-- What a one-event turn answers when the entry of its command is passed: the state without the command in the queue,
with the acting framer as the entry leaves it. -/
theorem turnEvent_entered (hf : s.insts[s.cur]? = some f) (hn : f.fault = none)
    (hb : f.busy = false) (hr : f.inbox = r :: rest) (hd : decode s.countMax (.command r) = .ok i)
    (hi : i.isOperation = true) (hc : i.wf s.countMax = true)
    (hw : entryOf i (s.popInbox.view { f with inbox := rest }) = .next w) :
    s.turnEvent = .next (s.popInbox.put w) ∧ (s.popInbox.put w).insts = s.insts.set s.cur w.inst := by
  have hf' : s.popInbox.insts[s.popInbox.cur]? = some { f with inbox := rest } := by
    rw [popInbox_at hf, hr]; rfl
  refine ⟨?_, ?_⟩
  · rw [turnEvent_idle hf hb, fetch_cons _ hr hd]
    exact issue_of_entryOf hi hc hf' hn hb hw
  · simp [State.popInbox, List.modify_eq_set_getElem?, hf]

/-- Settles O45: the command's entry alone is run, on the state without it in the queue. -/
theorem eventTurnTakesCommand : Obligations.EventTurnTakesCommand := by
  intro s f k ts r rest i hts hf hn hb hr hd hi
  have hstep : step s = ({ s with turns := ts, cur := k } : State).turnEvent := by
    simp only [step, State.nextTurn, hts, State.takeTurn]
  rw [hstep]
  rcases hi with rfl | hp
  · obtain ⟨ht, hset⟩ := turnEvent_entered (s := { s with turns := ts, cur := k }) hf hn hb hr hd rfl rfl rfl
    exact ⟨_, _, ht, hset, rfl, rfl, rfl, ⟨rfl, rfl, rfl⟩, rfl, rfl, rfl, rfl, rfl, fun _ => ⟨rfl, rfl⟩, fun h => absurd rfl h⟩
  · have hp : ({ s with turns := ts, cur := k } : State).Passes f i := hp
    obtain ⟨hop, hwf⟩ := hp.isOperation
    have hp' := hp.popInbox
    rw [hr] at hp'
    obtain ⟨d, hd'⟩ := hp'.accepted
    obtain ⟨ht, hset⟩ := turnEvent_entered (s := { s with turns := ts, cur := k }) hf hn hb hr hd hop hwf hd'
    refine ⟨_, _, ht, hset, rfl, rfl, rfl, ⟨rfl, rfl, rfl⟩, rfl, rfl, rfl, rfl, rfl, ?_, fun _ => rfl⟩
    rintro rfl
    exact hp.elim

/-! ### The sentinel -/

/-- Settles O9: the reset number is compared with the sentinel, and nothing else is looked at. -/
theorem sentinelMeansNotConnected : Obligations.SentinelMeansNotConnected := by
  intro unused cs rst bus
  exact ⟨if_pos rfl, fun h => if_neg h, rfl, rfl⟩

end Sys2Proof.Machine
end

section
/-! PROOF. The statements on the state (10_state.md): the invariant and its start, the frame of the transfers, what no step
changes, and that a fault stays. -/

namespace Sys2Proof.Machine

variable {s t : State} {f : Framer} {v w : View} {i : Instr}

/-! ### One event of the operation in progress -/

/-- Everything one event of the operation in progress can do to the view v, by its phase (10_state.md R22). -/
inductive Advanced (v : View) : View → Prop where
  /-- At rest, faulted, or held at its Begin (20_memory.md R58). -/
  | rested (h : (v.inst.phase = .idle ∧ v.inst.initAt = none) ∨ v.inst.phase = .faulted ∨
      (v.inst.phase = .acq ∧ v.owner ≠ none)) : Advanced v v
  | init (st : InitStep) (w : View) (hp : v.inst.phase = .idle) (hst : v.inst.initAt = some st) (h : InitMoved v st w) :
      Advanced v w
  | began (hp : v.inst.phase = .acq) (ho : v.owner = none) : Advanced v (v.busBegin.goto .sel)
  | selected (hp : v.inst.phase = .sel) : Advanced v v.select
  | sent (hp : v.inst.phase = .xfer) : Advanced v v.xferStep
  | deselected (hp : v.inst.phase = .desel) : Advanced v v.deselect
  | released (hp : v.inst.phase = .rel) : Advanced v v.release
  | returned (hp : v.inst.phase = .done) : Advanced v v.ret

theorem advance_advanced (v : View) : Advanced v v.advance := by
  cases hp : v.inst.phase <;> simp only [View.advance, hp]
  case idle =>
    rcases advanceInit_moved v with ⟨hst, e⟩ | ⟨st, hst, hm⟩
    · rw [e]; exact .rested (.inl ⟨hp, hst⟩)
    · exact .init st _ hp hst hm
  case faulted => exact .rested (.inr (.inl hp))
  case acq =>
    unfold View.acquire
    split
    · exact .began hp ‹_›
    · exact .rested (.inr (.inr ⟨hp, ‹_›⟩))
  case sel => exact .selected hp
  case xfer => exact .sent hp
  case desel => exact .deselected hp
  case rel => exact .released hp
  case done => exact .returned hp

/-- The parts of a view that driving chip-select in a transaction leaves as they are. -/
structure CsKept (v w : View) : Prop where
  me : w.me = v.me
  owner : w.owner = v.owner
  bufs : w.bufs = v.bufs
  cfg : w.inst.cfg = v.inst.cfg
  fault : w.inst.fault = v.inst.fault
  k : w.inst.k = v.inst.k
  initAt : w.inst.initAt = v.inst.initAt
  dp : w.inst.dp = v.inst.dp
  results : w.inst.results = v.inst.results

theorem select_kept (v : View) : CsKept v v.select := by
  constructor <;> simp [View.select, View.csWrite]

theorem deselect_kept (v : View) : CsKept v v.deselect := by
  constructor <;> simp [View.deselect, View.csWrite]

theorem select_cs (v : View) : v.select.inst.cs = { v.inst.cs with lvl := .low } := setLvl_inst_own_cs v .low

theorem deselect_cs (v : View) : v.deselect.inst.cs = { v.inst.cs with lvl := .high } := setLvl_inst_own_cs v .high

/-! ### What a turn only adds to -/

/-- g has the configuration of f, and a history and results that go on from those of f (10_state.md R20, R31). -/
structure Extends (f g : Framer) : Prop where
  cfg : g.cfg = f.cfg
  trace : f.trace <+: g.trace
  results : f.results <+: g.results

theorem Extends.of_eq {g : Framer} (hcfg : g.cfg = f.cfg) (htrace : g.trace = f.trace)
    (hresults : g.results = f.results) : Extends f g :=
  ⟨hcfg, by rw [htrace], by rw [hresults]⟩

theorem Extends.trans {f g h : Framer} (a : Extends f g) (b : Extends g h) : Extends f h :=
  ⟨b.cfg.trans a.cfg, a.trace.trans b.trace, a.results.trans b.results⟩

theorem xferStep_extends (v : View) : Extends v.inst v.xferStep.inst :=
  ⟨(xferStep_kept v).cfg, xferStep_prefix v, by rw [(xferStep_kept v).results]⟩

theorem Advanced.extended (h : Advanced v w) : Extends v.inst w.inst := by
  cases h with
  | rested => exact .of_eq rfl rfl rfl
  | init st _ _ _ h =>
    obtain ⟨evs, htrace, _⟩ := h.trace
    exact ⟨h.kept.cfg, ⟨evs, htrace.symm⟩, by rw [h.kept.results]⟩
  | sent => exact xferStep_extends v
  | selected =>
    exact ⟨(select_kept v).cfg, by simp [View.select, View.csWrite], by rw [(select_kept v).results]⟩
  | deselected =>
    exact ⟨(deselect_kept v).cfg, by simp [View.deselect, View.csWrite], by rw [(deselect_kept v).results]⟩
  | began => exact ⟨rfl, List.prefix_append _ _, List.prefix_rfl⟩
  | released => exact ⟨rfl, List.prefix_append _ _, List.prefix_rfl⟩
  | returned => exact ⟨rfl, List.prefix_rfl, List.prefix_append _ _⟩

theorem Acted.extended (h : Acted s f w) : Extends f w.inst :=
  acted_keeps (fun w => Extends f w.inst) (.of_eq rfl rfl rfl) (fun w hw => hw.trans (advance_advanced w).extended)
    (fun _ _ _ => .of_eq rfl rfl rfl) (fun _ _ _ => .of_eq rfl rfl rfl) (fun _ _ _ _ _ _ => .of_eq rfl rfl rfl)
    (fun _ _ _ => .of_eq rfl rfl rfl) (fun _ _ => .of_eq rfl rfl rfl) (fun _ _ => xferStep_extends (s.view f)) h

/-- No move makes or loses an framer or writes the parameter. -/
theorem Moved.sizes {u : Option Turn} (h : Moved s u t) :
    t.insts.length = s.insts.length ∧ t.countMax = s.countMax := by
  cases h with
  | passed | placed | acquired | released => exact ⟨rfl, rfl⟩
  | acted | issued | fetched => simp

/-- Settles O50: one move keeps the sizes, and every event extends the acting framer. -/
theorem stepKeepsConfigurationAndHistory : Obligations.StepKeepsConfigurationAndHistory := by
  intro s t h
  obtain ⟨ts, c, hm⟩ := step_cases h
  obtain ⟨hlen, hmax⟩ := hm.sizes
  refine ⟨hlen, hmax, fun k f hk => ?_⟩
  obtain ⟨g, hg, he⟩ := step_each Extends (fun _ => .of_eq rfl rfl rfl) (fun _ _ => .of_eq rfl rfl rfl)
    (fun _ _ _ he => ⟨he.cfg, he.trace, he.results⟩) (fun _ _ _ ha => ha.extended) h k f hk
  exact ⟨g, hg, he.cfg, he.trace, he.results⟩

/-! ### Faults -/

/-- A faulted framer takes no step (10_state.md R26). -/
theorem Acted.unfaulted (h : Acted s f w) : f.fault = none := by
  cases h with
  | did _ _ _ _ h => cases h <;> assumption
  | carried _ _ hf => exact hf

/-- Settles O34: only an framer without a fault acts; the others keep all but their queue. -/
theorem faultIsSticky : Obligations.FaultIsSticky := by
  intro s t k f h hk hf
  obtain ⟨g, hg, hR⟩ := step_each
    (fun f g => f.fault ≠ none → ∃ l, g = { f with inbox := l })
    (fun f _ => ⟨f.inbox, rfl⟩) (fun _ l _ => ⟨l, rfl⟩) (fun _ _ _ hR => hR)
    (fun _ _ _ ha hn => absurd ha.unfaulted hn) h k f hk
  obtain ⟨l, rfl⟩ := hR hf
  exact ⟨_, hg, rfl, rfl, rfl, rfl, rfl, rfl⟩

theorem guarded_faulted (cmd : Instr) (act : View → Host.Outcome View Fault Refusal) (h : v.inst.fault ≠ none) :
    v.guarded cmd act = .fault .framerFaulted :=
  if_pos (Option.isSome_iff_ne_none.2 h)

theorem wireStep_faulted (c : Code) (h : v.inst.fault ≠ none) : v.wireStep c = .fault .framerFaulted :=
  if_pos (Option.isSome_iff_ne_none.2 h)

/-- Settles O33: the five operations are guarded by the fault register, and so are the wire forms. -/
theorem faultedFramerTakesNoStep : Obligations.FaultedFramerTakesNoStep := by
  rintro i s f hf hn hwf ⟨h5, h6, h7⟩
  have hop : i.isOperation = true → exec i s = .fault .framerFaulted := fun hi => by
    rw [exec_eq_entryOf hi hwf]
    exact onSelf_fault_of hf (guarded_faulted i _ hn)
  cases i with
  | write1 | writen | read1 | readn | init => exact hop rfl
  | addrW | addrR | dummy => exact onSelf_fault_of hf (wireStep_faulted _ hn)
  | reserved5 => exact absurd rfl h5
  | reserved6 => exact absurd rfl h6
  | reserved7 => exact absurd rfl h7

/-! ### The frame of the transfers -/

/-- Everything exec can do to the framer f but by INIT and the wire forms leaves its configuration, pins and level inputs. -/
theorem Did.finish_frame (h : Did View.finish s f i w) (hop : i.isOperation = true) (hi : i ≠ .init) :
    w.inst.cfg = f.cfg ∧ f.SamePins w.inst := by
  cases h with
  | held | raised | readNone => exact ⟨rfl, rfl, rfl, rfl⟩
  | accepted _ d _ _ hcs =>
    by_cases ho : s.busOwner = none
    · obtain ⟨u, hu, _, _, _, _, _, _, _, _, _, hcfg, _, _, hcs', hrst, hlvl⟩ :=
        finish_accept_spec (s.view f) d ho hcs _ rfl
      rw [hu]
      exact ⟨hcfg, hcs', hrst, hlvl⟩
    · rw [finish_accept_held (s.view f) d ho]
      exact ⟨rfl, rfl, rfl, rfl⟩
  | initialised => exact absurd rfl hi
  | sent _ _ _ _ hn => rw [hop] at hn; cases hn

/-- Settles O47: whatever way a transfer goes, the bracket gives the pins back as it found them. -/
theorem transferFrame : Obligations.TransferFrame := by
  intro i s t f hf h hi
  obtain ⟨hop, hinit⟩ : i.isOperation = true ∧ i ≠ .init := by
    rcases hi with ⟨r, x, rfl⟩ | ⟨r, n, b, rfl⟩ | ⟨r, rfl⟩ | ⟨r, n, b, ra, rfl⟩ <;> exact ⟨rfl, nofun⟩
  obtain ⟨g, w, hg, rfl, hd⟩ := exec_next h
  cases hf.symm.trans hg
  exact ⟨w.inst, put_became w, hd.finish_frame hop hinit⟩

/-! ### Chip-select as INIT leaves it -/

/-- Chip-select of an initialised framer is LOW exactly in XFER and DESEL (10_state.md R24). -/
theorem initialised_iff (f : Framer) : f.initialised = true ↔
    f.cs = if f.phase = .xfer ∨ f.phase = .desel then Pin.selected else Pin.deselected := by
  unfold Framer.initialised
  cases f.phase <;> simp

/-- An framer that holds no fault and is in no operation is in IDLE, with no event of INIT to come. -/
theorem idle_of_not_busy (hb : f.busy = false) : (f.phase = .idle ∧ f.initAt = none) ∨ f.phase = .faulted := by
  unfold Framer.busy at hb
  cases hp : f.phase <;> simp_all

theorem deselected_of_not_busy (hf : f.initialised = true) (hb : f.busy = false) : f.cs = Pin.deselected := by
  rw [initialised_iff] at hf
  rcases idle_of_not_busy hb with ⟨hp, _⟩ | hp <;> simpa [hp] using hf

theorem xferStep_initialised (hp : v.inst.phase = .xfer) (h : v.inst.initialised = true) :
    v.xferStep.inst.initialised = true := by
  rw [initialised_iff, hp, if_pos (.inl rfl)] at h
  have hphase : v.xferStep.inst.phase = .xfer ∨ v.xferStep.inst.phase = .desel := by
    by_cases hk : v.inst.k < v.inst.dp.plan.length
    · rw [xferStep_phase v hk]
      split
      · exact .inl rfl
      · exact .inr rfl
    · rw [xferStep_phase_of_le v (Nat.le_of_not_lt hk)]
      exact .inr rfl
  rw [initialised_iff, if_pos hphase, (xferStep_kept v).cs, h]

theorem InitMoved.initialised {st : InitStep} (h : InitMoved v st w) (hpins : v.inst.cfg.rstPin ≠ some v.inst.cfg.csPin)
    (hp : v.inst.phase = .idle) (hv : v.inst.initialised = true) : w.inst.initialised = true := by
  have hcs : v.inst.cs = Pin.deselected := by simpa [initialised_iff, hp] using hv
  have hw : w.inst.cs = Pin.deselected := by
    rw [h.cs hpins, hcs]
    cases st <;> rfl
  rw [initialised_iff, hw, if_neg]
  rcases h.goes with ⟨_, _, _, _, e⟩ | ⟨_, e⟩ <;> simp [e, hp]

theorem Advanced.initialised (h : Advanced v w) (hpins : v.inst.cfg.rstPin ≠ some v.inst.cfg.csPin)
    (hv : v.inst.initialised = true) : w.inst.initialised = true := by
  cases h with
  | rested => exact hv
  | init _ _ hp _ hm => exact hm.initialised hpins hp hv
  | sent hp => exact xferStep_initialised hp hv
  | began hp | released hp | returned hp =>
    rw [initialised_iff, hp] at hv
    exact (initialised_iff _).2 hv
  | selected hp =>
    rw [initialised_iff, hp] at hv
    rw [initialised_iff, select_cs, hv]
    rfl
  | deselected hp =>
    rw [initialised_iff, hp] at hv
    rw [initialised_iff, deselect_cs, hv]
    rfl

theorem Acted.initialised (h : Acted s f w) (hpins : f.cfg.rstPin ≠ some f.cfg.csPin) (hf : f.initialised = true) :
    w.inst.initialised = true := by
  have hcs : f.busy = false → f.cs = Pin.deselected := deselected_of_not_busy hf
  refine (acted_keeps (fun w => w.inst.cfg = f.cfg ∧ w.inst.initialised = true) ⟨rfl, hf⟩ ?adv ?hold ?raise ?accept
    ?readNone ?init ?xfer h).2
  case adv =>
    rintro w ⟨hcfg, hw⟩
    have ha := advance_advanced w
    exact ⟨ha.extended.cfg.trans hcfg, ha.initialised (by rwa [hcfg]) hw⟩
  case hold => exact fun _ _ _ => ⟨rfl, hf⟩
  case raise => exact fun _ _ hb => ⟨rfl, (initialised_iff _).2 (hcs hb)⟩
  case accept => exact fun _ _ _ hcs _ _ => ⟨rfl, (initialised_iff _).2 hcs⟩
  case readNone => exact fun _ _ hb => ⟨rfl, (initialised_iff _).2 (hcs hb)⟩
  case init => exact fun _ hb => ⟨rfl, (initialised_iff _).2 (hcs hb)⟩
  case xfer => exact fun _ hp => ⟨(xferStep_kept _).cfg, xferStep_initialised hp hf⟩

/-- Settles O56: each event takes chip-select to the level of the phase it leads to, and INIT's find it as they leave it. -/
theorem initialisedStaysInitialised : Obligations.InitialisedStaysInitialised := by
  intro s t k f h hk hpins hf
  obtain ⟨g, hg, hR⟩ := step_each
    (fun f g => f.cfg.rstPin ≠ some f.cfg.csPin → f.initialised = true → g.initialised = true)
    (fun _ _ hf => hf) (fun _ _ _ hf => hf) (fun _ _ _ hR => hR) (fun _ _ _ ha => ha.initialised) h k f hk
  exact ⟨g, hg, hR hpins hf⟩

/-! ### The invariant, part by part -/

/-- `Framer.ok` in parts: the bus register, chip-select, the step counter, INIT's place and the fault register, each as the
phase says (10_state.md R22, R24-R26). -/
structure Framer.Coherent (countMax : Nat) (owner : Option Agent) (k : Nat) (f : Framer) : Prop where
  bus : owner = some (.framer k) ↔ f.phase.onBus = true
  cs : f.csOk = true
  count : f.countOk countMax = true
  init : ∀ st, f.initAt = some st →
    f.phase = .idle ∧ f.dp.opr = .init ∧ (st.onCs = true ∨ f.cfg.rstPin.isSome = true)
  fault : f.fault ≠ none ↔ f.phase = .faulted

theorem initOk_iff (f : Framer) : f.initOk = true ↔ ∀ st, f.initAt = some st →
    f.phase = .idle ∧ f.dp.opr = .init ∧ (st.onCs = true ∨ f.cfg.rstPin.isSome = true) := by
  unfold Framer.initOk
  cases f.initAt <;> simp [and_assoc]

theorem ok_iff_coherent (countMax : Nat) (owner : Option Agent) (k : Nat) (f : Framer) :
    f.ok countMax owner k = true ↔ f.Coherent countMax owner k := by
  have hbus : (decide (owner = some (.framer k)) == f.phase.onBus) = true ↔
      (owner = some (.framer k) ↔ f.phase.onBus = true) := by
    cases f.phase.onBus <;> simp
  have hfault : (f.fault.isSome == (f.phase == .faulted)) = true ↔ (f.fault ≠ none ↔ f.phase = .faulted) := by
    cases f.fault <;> simp
  simp only [Framer.ok, Bool.and_eq_true, hbus, initOk_iff, hfault]
  constructor
  · rintro ⟨⟨⟨⟨h1, h2⟩, h3⟩, h4⟩, h5⟩
    exact ⟨h1, h2, h3, h4, h5⟩
  · rintro ⟨h1, h2, h3, h4, h5⟩
    exact ⟨⟨⟨⟨h1, h2⟩, h3⟩, h4⟩, h5⟩

/-- What the acting framer of s may become for the invariant of s to hold of the whole state again: it is coherent, every
buffer is in canonical form, and the bus register says of every other framer what it said. -/
structure View.Coherent (s : State) (v : View) : Prop where
  me : v.me = s.cur
  inst : v.inst.Coherent s.countMax v.owner s.cur
  others : ∀ k, k ≠ s.cur → (v.owner = some (.framer k) ↔ s.busOwner = some (.framer k))
  bufs : bufsWf v.bufs = true

theorem coherent_view (h : s.Inv) (hf : s.insts[s.cur]? = some f) : (s.view f).Coherent s := by
  obtain ⟨hok, _, hbufs, _⟩ := h
  exact ⟨rfl, (ok_iff_coherent ..).1 (hok _ f hf), fun _ _ => Iff.rfl, hbufs⟩

theorem inv_put (h : s.Inv) (hf : s.insts[s.cur]? = some f) (hw : w.Coherent s) : (s.put w).Inv := by
  obtain ⟨hok, hexists, _, hmax⟩ := h
  have hcur : s.cur < s.insts.length := (List.getElem?_eq_some_iff.1 hf).1
  refine ⟨fun k g hg => ?_, fun k hk => ?_, hw.bufs, hmax⟩
  · rw [ok_iff_coherent]
    by_cases hk : k = s.cur
    · subst hk
      rw [put_at w hf] at hg
      cases hg
      exact hw.inst
    · rw [put_other w k hk] at hg
      obtain ⟨hbus, hcs, hcount, hinit, hfault⟩ := (ok_iff_coherent ..).1 (hok k g hg)
      exact ⟨(hw.others k hk).trans hbus, hcs, hcount, hinit, hfault⟩
  · rw [put_insts, List.length_set]
    by_cases hc : k = s.cur
    · exact hc ▸ hcur
    · exact hexists k ((hw.others k hc).1 hk)

/-! ### Every event keeps the acting framer coherent -/

theorem InitMoved.coherent {countMax k : Nat} {owner : Option Agent} {st : InitStep} (h : InitMoved v st w)
    (hp : v.inst.phase = .idle) (hst : v.inst.initAt = some st) (hv : v.inst.Coherent countMax owner k) :
    w.inst.Coherent countMax owner k := by
  obtain ⟨hbus, hcs, hcount, hinit, hfault⟩ := hv
  obtain ⟨_, hopr, _⟩ := hinit st hst
  have hlow : w.inst.cs.lvl ≠ .low := h.not_low (by simpa [Framer.csOk, hp] using hcs)
  have hk : w.inst.k = 0 := by simpa [Framer.countOk, hp, h.kept.k] using hcount
  rw [hp] at hbus hfault
  rcases h.goes with ⟨st', hat, _, hpin, hphase⟩ | ⟨hat, hphase⟩
  · rw [hp] at hphase
    refine ⟨by rw [hphase]; exact hbus, by simp [Framer.csOk, hphase, hlow], by simp [Framer.countOk, hphase, hk], ?_,
      by rw [h.kept.fault, hphase]; exact hfault⟩
    intro st'' hst''
    cases hat.symm.trans hst''
    exact ⟨hphase, h.kept.opr.trans hopr, by rwa [h.kept.cfg]⟩
  · refine ⟨by rw [hphase]; exact hbus, by simp [Framer.csOk, hphase, hlow], by simp [Framer.countOk, hphase], ?_,
      by rw [h.kept.fault, hphase]; simpa using hfault⟩
    intro st' hst'
    cases hat.symm.trans hst'

theorem xferStep_bufsWf (v : View) (h : bufsWf v.bufs = true) : bufsWf v.xferStep.bufs = true := by
  cases htx : v.inst.dp.plan[v.inst.k]? with
  | none => simpa only [View.xferStep, htx, goto_bufs] using h
  | some tx =>
    by_cases ho : v.inst.dp.opr = .readn
    · by_cases hk : v.inst.k = 0
      · obtain ⟨_, e, _⟩ := xferStep_plain v tx htx (fun hc => hc.2 hk) (fun hc => hc.2 hk)
        rwa [e]
      · obtain ⟨_, e, _⟩ := xferStep_store v tx htx ho hk
        rw [e]
        exact bufsWf_modify _ _ _ _ h
    · rwa [xferStep_bufs v ho]

theorem Framer.Coherent.initAt_none {countMax k : Nat} {owner : Option Agent} (h : f.Coherent countMax owner k)
    (hp : f.phase ≠ .idle) : f.initAt = none := by
  cases ha : f.initAt with
  | none => rfl
  | some st => exact absurd (h.init st ha).1 hp

theorem xferStep_coherent {countMax k : Nat} {owner : Option Agent} (hp : v.inst.phase = .xfer)
    (hv : v.inst.Coherent countMax owner k) : v.xferStep.inst.Coherent countMax owner k := by
  have hkept := xferStep_kept v
  have hat : v.xferStep.inst.initAt = none := hkept.initAt.trans (hv.initAt_none (by simp [hp]))
  obtain ⟨hbus, hcs, hcount, _, hfault⟩ := hv
  simp only [Framer.csOk, Framer.countOk, hp, beq_iff_eq, Bool.and_eq_true, decide_eq_true_eq] at hcs hcount hbus hfault
  obtain ⟨hlt, hmax⟩ := hcount
  have hphase := xferStep_phase v hlt
  split at hphase
  all_goals
    refine ⟨by rw [hphase]; exact hbus, ?_, ?_, by simp [hat], by rw [hphase, hkept.fault]; simpa using hfault⟩
    · simp [Framer.csOk, hphase, hkept.cs, hcs]
    · simp only [Framer.countOk, hphase, xferStep_k v hlt, hkept.plan, beq_iff_eq, Bool.and_eq_true, decide_eq_true_eq]
      omega

/-- Before its first transfer a frame has something to send and is within COUNT_MAX + 1 (10_state.md R22). -/
theorem countOk_start {countMax : Nat} (hp : f.phase = .acq ∨ f.phase = .sel) : f.countOk countMax = true ↔
    f.k = 0 ∧ 0 < f.dp.plan.length ∧ f.dp.plan.length ≤ countMax + 1 := by
  rcases hp with hp | hp <;> simp [Framer.countOk, hp, and_assoc]

theorem busBegin_coherent {countMax : Nat} {owner : Option Agent} (hp : v.inst.phase = .acq)
    (hv : v.inst.Coherent countMax owner v.me) :
    (v.busBegin.goto .sel).inst.Coherent countMax (some (.framer v.me)) v.me := by
  have hat := hv.initAt_none (by simp [hp])
  obtain ⟨_, hcs, hcount, _, hfault⟩ := hv
  refine ⟨iff_of_true rfl rfl, ?_, ?_, by simp [hat], by simpa [hp] using hfault⟩
  · simpa [Framer.csOk, hp] using hcs
  · exact (countOk_start (.inr rfl)).2 ((countOk_start (.inl hp)).1 hcount)

theorem select_coherent {countMax k : Nat} {owner : Option Agent} (hp : v.inst.phase = .sel)
    (hv : v.inst.Coherent countMax owner k) : v.select.inst.Coherent countMax owner k := by
  have hkept := select_kept v
  have hat := hv.initAt_none (by simp [hp])
  have hphase : v.select.inst.phase = .xfer := rfl
  obtain ⟨hbus, hcs, hcount, _, hfault⟩ := hv
  simp only [Framer.csOk, hp, beq_iff_eq] at hcs hbus hfault
  obtain ⟨hk, hpos, hmax⟩ := (countOk_start (.inr hp)).1 hcount
  refine ⟨hbus, ?_, ?_, by simp [hkept.initAt, hat], by simpa [hphase, hkept.fault] using hfault⟩
  · simp [Framer.csOk, hphase, select_cs, hcs, Pin.deselected, Pin.selected]
  · simp [Framer.countOk, hphase, hkept.k, hkept.dp, hk, hpos, hmax]

theorem deselect_coherent {countMax k : Nat} {owner : Option Agent} (hp : v.inst.phase = .desel)
    (hv : v.inst.Coherent countMax owner k) : v.deselect.inst.Coherent countMax owner k := by
  have hkept := deselect_kept v
  have hat := hv.initAt_none (by simp [hp])
  have hphase : v.deselect.inst.phase = .rel := rfl
  obtain ⟨hbus, hcs, hcount, _, hfault⟩ := hv
  simp only [Framer.csOk, Framer.countOk, hp, beq_iff_eq] at hcs hcount hbus hfault
  refine ⟨hbus, ?_, ?_, by simp [hkept.initAt, hat], by simpa [hphase, hkept.fault] using hfault⟩
  · simp [Framer.csOk, hphase, deselect_cs, hcs, Pin.deselected, Pin.selected]
  · simpa [Framer.countOk, hphase, hkept.k, hkept.dp] using hcount

theorem release_coherent {countMax k : Nat} {owner : Option Agent} (hp : v.inst.phase = .rel)
    (hv : v.inst.Coherent countMax owner k) : v.release.inst.Coherent countMax none k := by
  have hat := hv.initAt_none (by simp [hp])
  obtain ⟨_, hcs, _, _, hfault⟩ := hv
  have hcs : v.inst.cs = Pin.deselected := by simpa [Framer.csOk, hp] using hcs
  refine ⟨iff_of_false nofun Bool.false_ne_true, ?_, rfl, by simp [View.release, hat], ?_⟩
  · simp [View.release, Framer.csOk, hcs, Pin.deselected]
  · simpa [View.release, hp] using hfault

theorem ret_coherent {countMax k : Nat} {owner : Option Agent} (hp : v.inst.phase = .done)
    (hv : v.inst.Coherent countMax owner k) : v.ret.inst.Coherent countMax owner k := by
  obtain ⟨hbus, hcs, _, _, hfault⟩ := hv
  rw [hp] at hbus hfault
  refine ⟨hbus, ?_, rfl, nofun, by simpa using hfault⟩
  simpa [Framer.csOk, hp] using hcs

/-- Every event of an operation keeps what the invariant says of the acting framer. -/
theorem Advanced.coherent (h : Advanced v w) (hv : v.Coherent s) : w.Coherent s := by
  obtain ⟨hme, hinst, hothers, hbufs⟩ := hv
  cases h with
  | rested => exact ⟨hme, hinst, hothers, hbufs⟩
  | init st _ hp hst h =>
    obtain ⟨kme, kowner, kbufs, _⟩ := h.kept
    exact ⟨kme.trans hme, kowner ▸ h.coherent hp hst hinst, kowner ▸ hothers, kbufs ▸ hbufs⟩
  | sent hp =>
    obtain ⟨kme, kowner, _⟩ := xferStep_kept v
    exact ⟨kme.trans hme, kowner ▸ xferStep_coherent hp hinst, kowner ▸ hothers, xferStep_bufsWf v hbufs⟩
  | began hp ho =>
    rw [← hme] at hinst
    refine ⟨hme, hme ▸ busBegin_coherent hp hinst, fun j hj => ?_, hbufs⟩
    simpa [hme, Ne.symm hj, ho] using hothers j hj
  | selected hp => exact ⟨(select_kept v).me.trans hme, select_coherent hp hinst, hothers, hbufs⟩
  | deselected hp => exact ⟨(deselect_kept v).me.trans hme, deselect_coherent hp hinst, hothers, hbufs⟩
  | released hp =>
    have hown : v.owner = some (.framer s.cur) := hinst.bus.2 (by rw [hp]; rfl)
    refine ⟨hme, release_coherent hp hinst, fun j hj => ?_, hbufs⟩
    simpa [View.release, hown, Ne.symm hj] using hothers j hj
  | returned hp => exact ⟨hme, ret_coherent hp hinst, hothers, hbufs⟩

/-! ### Every turn keeps the invariant -/

/-- A coherent framer with no fault and in no operation is at rest. -/
theorem Framer.Coherent.at_rest {countMax k : Nat} {owner : Option Agent} (h : f.Coherent countMax owner k)
    (hn : f.fault = none) (hb : f.busy = false) :
    f.initAt = none ∧ f.k = 0 ∧ f.cs.lvl ≠ .low ∧ owner ≠ some (.framer k) := by
  obtain ⟨hbus, hcs, hcount, _, hfault⟩ := h
  obtain ⟨hp, hat⟩ := (idle_of_not_busy hb).resolve_right fun e => hfault.2 e hn
  refine ⟨hat, ?_, ?_, ?_⟩
  · simpa [Framer.countOk, hp] using hcount
  · simpa [Framer.csOk, hp] using hcs
  · simpa [hp, Phase.onBus] using hbus

theorem Acted.coherent (hmax : 1 ≤ s.countMax) (h : Acted s f w) (hv : (s.view f).Coherent s) : w.Coherent s := by
  have hf : f.Coherent s.countMax s.busOwner s.cur := hv.inst
  refine acted_keeps (View.Coherent s) hv (fun w => (advance_advanced w).coherent) ?hold ?raise ?accept ?readNone ?init
    ?xfer h
  case hold =>
    obtain ⟨hbus, hcs, hcount, hinit, hfault⟩ := hf
    exact fun _ _ _ => ⟨rfl, ⟨hbus, hcs, hcount, hinit, hfault⟩, hv.others, hv.bufs⟩
  case raise =>
    intro c hn hb
    obtain ⟨hat, hk, hlow, hown⟩ := hf.at_rest hn hb
    refine ⟨rfl, ⟨iff_of_false hown Bool.false_ne_true, ?_, ?_, by simp [hat], by simp⟩, hv.others, hv.bufs⟩
    · simpa [Framer.csOk] using hlow
    · simpa [Framer.countOk] using hk
  case accept =>
    intro d hn hb hcs hpos hlen
    obtain ⟨hat, _, _, hown⟩ := hf.at_rest hn hb
    refine ⟨rfl, ⟨iff_of_false hown Bool.false_ne_true, ?_, ?_, by simp [hat], by simp [hn]⟩, hv.others, hv.bufs⟩
    · simpa [Framer.csOk] using hcs
    · exact (countOk_start (.inl rfl)).2 ⟨rfl, hpos, hlen hmax⟩
  case readNone =>
    intro d hn hb
    obtain ⟨hat, _, hlow, hown⟩ := hf.at_rest hn hb
    refine ⟨rfl, ⟨iff_of_false hown Bool.false_ne_true, ?_, rfl, by simp [hat], by simp [hn]⟩, hv.others, hv.bufs⟩
    simpa [Framer.csOk] using hlow
  case init =>
    intro hn hb
    obtain ⟨_, _, hlow, hown⟩ := hf.at_rest hn hb
    refine ⟨rfl, ⟨iff_of_false hown Bool.false_ne_true, ?_, rfl, ?_, by simp [hn]⟩, hv.others, hv.bufs⟩
    · simpa [Framer.csOk] using hlow
    · rintro st ⟨⟩
      exact ⟨rfl, rfl, .inl rfl⟩
  case xfer => exact fun _ hp => (Advanced.sent hp).coherent hv

/-- The invariant does not look at the queues. -/
theorem inv_modify_inbox (h : s.Inv) (j : Nat) (g : List Record → List Record) :
    ({ s with insts := s.insts.modify j fun f => { f with inbox := g f.inbox } } : State).Inv := by
  obtain ⟨hok, hexists, hbufs, hmax⟩ := h
  refine ⟨fun k f hf => ?_, fun k hk => ?_, hbufs, hmax⟩
  · simp only [List.getElem?_modify] at hf
    obtain ⟨f', hf', rfl⟩ := Option.map_eq_some_iff.1 hf
    split
    · exact hok k f' hf'
    · exact hok k f' hf'
  · simpa using hexists k hk

theorem Moved.inv {u : Option Turn} (h : Moved s u t) (hs : s.Inv) : t.Inv := by
  have ⟨hok, hexists, hbufs, hmax⟩ := hs
  cases h with
  | passed => exact hs
  | acted f w hf ha => exact inv_put hs hf (ha.coherent hmax (coherent_view hs hf))
  | fetched f r go hgo i w hf hb hr hd ha =>
    have hpop : s.popInbox.Inv := inv_modify_inbox hs s.cur List.tail
    have hf' := popInbox_at hf
    exact inv_put hpop hf' ((Acted.did go hgo i w ha).coherent hmax (coherent_view hpop hf'))
  | issued k r => exact inv_modify_inbox hs k (· ++ [r])
  | placed b slots => exact ⟨hok, hexists, bufsWf_placeBuf _ _ _ (Buffer.ofSlots_wf slots) hbufs, hmax⟩
  | acquired _ hfree | released _ hfree =>
    refine ⟨fun k f hf => ?_, nofun, hbufs, hmax⟩
    have hf := (ok_iff_coherent ..).1 (hok k f hf)
    rw [hfree] at hf
    exact (ok_iff_coherent ..).2 ⟨(iff_of_false nofun nofun).trans hf.bus, hf.cs, hf.count, hf.init, hf.fault⟩

/-- Settles O53: one move keeps the invariant, event by event of the acting framer. -/
theorem stepKeepsInvariant : Obligations.StepKeepsInvariant := by
  intro s t hs h
  obtain ⟨ts, k, hm⟩ := step_cases h
  exact hm.inv hs

/-! ### Construction -/

theorem construct_at (cfgs : List Cfg) (countMax k : Nat) :
    (State.construct cfgs countMax).insts[k]? = cfgs[k]?.map Framer.construct :=
  List.getElem?_map

/-- Settles O51: each framer is its configuration's, just constructed. -/
theorem constructionState : Obligations.ConstructionState := by
  intro cfgs countMax k c hc
  refine ⟨rfl, List.length_map _, Framer.construct c, ?_, rfl, rfl, rfl, rfl, rfl, rfl, rfl⟩
  rw [construct_at, hc]
  rfl

theorem construct_inv (cfgs : List Cfg) (countMax : Nat) (h : 1 ≤ countMax) : (State.construct cfgs countMax).Inv := by
  refine ⟨fun k f hf => ?_, nofun, rfl, h⟩
  rw [construct_at] at hf
  obtain ⟨c, _, rfl⟩ := Option.map_eq_some_iff.1 hf
  exact (ok_iff_coherent ..).2 ⟨iff_of_false nofun Bool.false_ne_true, rfl, rfl, nofun, iff_of_false (· rfl) nofun⟩

/-- Settles O52: a constructed framer is idle and the bus is free; reset is a construction. -/
theorem constructionMeetsInvariant : Obligations.ConstructionMeetsInvariant :=
  ⟨construct_inv _ _ (by decide), construct_inv⟩

/-! ### Other bus users -/

theorem platformBegin_free (h : s.busOwner = none) : s.platformBegin = { s with busOwner := some .platform } := if_pos h

theorem platformBegin_owned (h : s.busOwner ≠ none) : s.platformBegin = s := if_neg h

theorem platformEnd_owner (h : s.busOwner = some .platform) : s.platformEnd = { s with busOwner := none } := if_pos h

/-- Settles O39: the turn asks the bus register alone. -/
theorem platformAcquiresAndReleases : Obligations.PlatformAcquiresAndReleases := by
  intro s ts
  have hbegin : s.turns = .platformBegin :: ts → step s = .next { s with turns := ts }.platformBegin := fun h => by
    simp only [step, State.nextTurn, h, State.takeTurn]
  have hend : s.turns = .platformEnd :: ts → step s = .next { s with turns := ts }.platformEnd := fun h => by
    simp only [step, State.nextTurn, h, State.takeTurn]
  exact ⟨fun h hb => (hbegin h).trans (congrArg _ (platformBegin_free hb)),
    fun h hb => (hbegin h).trans (congrArg _ (platformBegin_owned hb)),
    fun h hb => (hend h).trans (congrArg _ (platformEnd_owner hb))⟩

end Sys2Proof.Machine
end

section
/-! PROOF. The statements on the bus (20_memory.md R58): a transfer that finds it owned is held and goes on unchanged, and no
turn disturbs the transaction of the agent that owns it. -/

namespace Sys2Proof.Machine

variable {s t : State} {f : Framer} {v w : View} {i : Instr} {a : Agent}

/-! ### The registers a transfer is accepted with -/

/-- The datapath registers the entry of a transfer loads; what is no transfer loads none. -/
def loadOf (i : Instr) (v : View) : Datapath :=
  match i with
  | .write1 r x => loadWrite1 r x v.inst.dp
  | .writen r n b => loadWriten r n b (slotVals (bufAt v.bufs b) n) v.inst.dp
  | .read1 r => loadRead1 r v.inst.dp
  | .readn r n b ra => loadReadn r n b ra ((bufAt v.bufs b).read 0) v.inst.dp
  | .init | .reserved5 | .reserved6 | .reserved7 | .addrW _ | .addrR _ | .dummy => v.inst.dp

theorem accept_inj {d d' : Datapath} (h : v.accept d = v.accept d') : d = d' :=
  congrArg (fun w => w.inst.dp) h

/-- A view that is not in ACQ is not one an acceptance leaves. -/
theorem not_accept {d : Datapath} (hp : w.inst.phase ≠ .acq) :
    (.next w : Host.Outcome View Fault Refusal) ≠ .next (v.accept d) := by
  rintro ⟨⟩
  exact hp rfl

theorem enter_accepts {cmd : Instr} {n b : Nat} {reads : List Nat} {d d' : Datapath}
    (h : v.enter cmd n b reads d = .next (v.accept d')) : d' = d := by
  rcases enter_cases v cmd n b reads d with ⟨c, _, e⟩ | ⟨_, e | e⟩ <;> rw [e] at h
  · exact absurd h (not_accept nofun)
  · cases h
  · exact (accept_inj (Host.Outcome.next.inj h)).symm

/-- An entry that accepts its command does so with the registers of `loadOf`. -/
theorem entryOf_accepts {d : Datapath} (h : entryOf i v = .next (v.accept d)) : d = loadOf i v := by
  cases i with
  | write1 | writen | read1 => exact enter_accepts h
  | readn r n b ra =>
    simp only [entryOf, enterReadn] at h
    split at h
    · exact absurd h (not_accept nofun)
    · exact enter_accepts h
  | init => exact absurd h (not_accept nofun)
  | reserved5 | reserved6 | reserved7 | addrW | addrR | dummy => cases h

/-- A transfer that passes its checks is accepted, and carried as far as the bus lets it. -/
theorem State.Passes.exec_eq (h : s.Passes f i) (hf : s.Free f) :
    exec i s = .next (s.put ((s.view f).accept (loadOf i (s.view f))).finish) := by
  obtain ⟨hat, hn, hb⟩ := hf
  obtain ⟨hop, hwf⟩ := h.isOperation
  obtain ⟨d, hd⟩ := h.accepted
  rw [← entryOf_accepts hd, exec_eq_entryOf hop hwf]
  refine onSelf_next_of hat ?_
  rw [guarded_free _ _ _ hn hb, thenFinish, hd]

/-- On an owned bus it is held at its Begin. -/
theorem State.Passes.exec_held (h : s.Passes f i) (hf : s.Free f) (ho : s.busOwner ≠ none) :
    exec i s = .next (s.put ((s.view f).accept (loadOf i (s.view f)))) := by
  rw [h.exec_eq hf, finish_accept_held _ _ ho]

/-! ### Held, and going on -/

theorem slotVals_length (b : Buffer) (n : Nat) (h : ∀ i < n, b.read i ≠ none) : (slotVals b n).length = n := by
  have hall : ∀ i ∈ List.range n, (b.read i).isSome = true := fun i hi =>
    Option.isSome_iff_ne_none.2 (h i (List.mem_range.1 hi))
  rw [slotVals, List.filterMap_length_eq_length.2 hall, List.length_range]

/-- Settles O36: the held state is the acceptance of the command, with its registers loaded. -/
theorem transferHeldWhileBusOwned : Obligations.TransferHeldWhileBusOwned := by
  intro i s f hf hp ho
  have ⟨_, hn, _⟩ := hf
  refine ⟨_, _, hp.exec_held hf ho, put_became _, ⟨rfl, rfl, rfl⟩, rfl, rfl, rfl, rfl, rfl, hn, rfl, rfl, rfl, ?_⟩
  cases i with
  | write1 | read1 => exact ⟨rfl, rfl, rfl, rfl⟩
  | writen r n b =>
    obtain ⟨_, _, _, hdef, _⟩ := hp
    exact ⟨rfl, rfl, rfl, rfl, rfl, congrArg (· + 1) (slotVals_length _ n hdef)⟩
  | readn r n b ra =>
    obtain ⟨_, hn, _⟩ := hp
    have hplan : planOf [] (.readn r n b ra) = List.replicate n (addrRead r) ++ [0x00] := by
      rw [planOf, planTx, if_neg (by omega)]
      rfl
    exact ⟨rfl, rfl, rfl, rfl, rfl, rfl, rfl, hplan⟩
  | init | reserved5 | reserved6 | reserved7 | addrW | addrR | dummy => exact hp

/-- The entry checks do not look at the bus register. -/
theorem State.Passes.freed (h : s.Passes f i) : ({ s with busOwner := none } : State).Passes f i := by
  cases i <;> exact h

/-- Nor do the registers a transfer loads. -/
theorem loadOf_freed (i : Instr) (s : State) (f : Framer) :
    loadOf i (({ s with busOwner := none } : State).view f) = loadOf i (s.view f) := by
  cases i <;> rfl

/-- With no turn given, a step is a whole turn of framer `cur`. -/
theorem step_of_no_turns (h : s.turns = []) : step s = s.turnWhole := by
  simp only [step, State.nextTurn, h]

/-- Settles O37: the held view with the bus freed is the acceptance on the free bus, and the turn carries it to its return. -/
theorem heldTransferGoesOnUnchanged : Obligations.HeldTransferGoesOnUnchanged := by
  intro i s t f hf hp ho hts h
  cases (hp.exec_held hf ho).symm.trans h
  have ⟨hat, hn, _⟩ := hf
  rw [hp.freed.exec_eq hf, loadOf_freed, step_of_no_turns]
  · exact turnWhole_put (w := (State.view { s with busOwner := none } f).accept _) hat ⟨rfl, rfl, rfl⟩ hn rfl
  · exact hts

/-! ### The turn of a framer that does not own the bus -/

/-- What g has recorded since f is nothing another bus user can see. -/
def Framer.AddsOffBus (f g : Framer) : Prop := ∃ evs, g.trace = f.trace ++ evs ∧ ∀ e ∈ evs, e.onBus = false

theorem Framer.AddsOffBus.of_eq {g : Framer} (h : g.trace = f.trace) : f.AddsOffBus g :=
  ⟨[], by simpa using h, nofun⟩

theorem Framer.AddsOffBus.trans {g h : Framer} (hg : f.AddsOffBus g) (hh : g.AddsOffBus h) : f.AddsOffBus h := by
  obtain ⟨es, htrace, hes⟩ := hg
  obtain ⟨fs, htrace', hfs⟩ := hh
  refine ⟨es ++ fs, by rw [htrace', htrace, List.append_assoc], fun e he => ?_⟩
  exact (List.mem_append.1 he).elim (hes e) (hfs e)

/-- v is what f has become while a, another agent, owns the bus: outside the bracket, with no bus event made. -/
structure View.Outside (a : Agent) (f : Framer) (v : View) : Prop where
  owner : v.owner = some a
  phase : v.inst.phase.onBus = false
  trace : f.AddsOffBus v.inst

theorem InitMoved.addsOffBus {st : InitStep} (h : InitMoved v st w) : v.inst.AddsOffBus w.inst := by
  obtain ⟨evs, htrace, hevs⟩ := h.trace
  exact ⟨evs, htrace, fun e he => (hevs e he).1⟩

/-- Outside the bracket only INIT makes events, and Begin is not enabled (20_memory.md R58). -/
theorem Advanced.outside (h : Advanced v w) (hv : v.Outside a f) : w.Outside a f := by
  obtain ⟨howner, hphase, htrace⟩ := hv
  cases h with
  | rested => exact ⟨howner, hphase, htrace⟩
  | init st _ hp _ hm =>
    refine ⟨hm.kept.owner.trans howner, ?_, htrace.trans hm.addsOffBus⟩
    rcases hm.goes with ⟨_, _, _, _, e⟩ | ⟨_, e⟩
    · rw [e, hphase]
    · rw [e]; rfl
  | began _ ho => rw [ho] at howner; cases howner
  | selected hp | sent hp | deselected hp | released hp => rw [hp] at hphase; cases hphase
  | returned => exact ⟨howner, rfl, htrace⟩

theorem Acted.outside (h : Acted s f w) (ho : s.busOwner = some a) (hp : f.phase.onBus = false) : w.Outside a f := by
  have h0 : (s.view f).Outside a f := ⟨ho, hp, .of_eq rfl⟩
  refine acted_keeps (View.Outside a f) h0 (fun w => (advance_advanced w).outside) ?hold ?raise ?accept ?readNone ?init
    ?xfer h
  case hold => exact fun _ _ _ => ⟨ho, hp, .of_eq rfl⟩
  case raise => exact fun _ _ _ => ⟨ho, rfl, .of_eq rfl⟩
  case accept => exact fun _ _ _ _ _ _ => ⟨ho, rfl, .of_eq rfl⟩
  case readNone => exact fun _ _ _ => ⟨ho, rfl, .of_eq rfl⟩
  case init => exact fun _ _ => ⟨ho, rfl, .of_eq rfl⟩
  case xfer => exact fun _ hx => (Advanced.sent hx).outside h0

/-! ### The turn of the framer that owns the bus -/

/-- Where the owner a, seen in v, is in its bracket: inside it, or past its End, with nothing recorded since. -/
inductive View.Bracketed (a : Agent) (v : View) : Prop where
  | inside (owner : v.owner = some a) (phase : v.inst.phase.onBus = true)
  | ended (owner : v.owner = none) (trace : v.inst.trace.getLast? = some .busEnd)
      (phase : v.inst.phase = .done ∨ v.inst.phase = .idle ∧ v.inst.initAt = none)

theorem xferStep_phase_onBus (v : View) : v.xferStep.inst.phase.onBus = true := by
  by_cases hk : v.inst.k < v.inst.dp.plan.length
  · rw [xferStep_phase v hk]
    split <;> rfl
  · rw [xferStep_phase_of_le v (Nat.le_of_not_lt hk)]
    rfl

/-- Only the End leaves the bracket, and no event follows it. -/
theorem Advanced.bracketed (h : Advanced v w) (hv : v.Bracketed a) : w.Bracketed a := by
  cases hv with
  | inside howner hphase =>
    cases h with
    | rested => exact .inside howner hphase
    | init _ _ hp | began hp | returned hp => rw [hp] at hphase; cases hphase
    | selected | deselected => exact .inside howner rfl
    | sent => exact .inside ((xferStep_kept v).owner.trans howner) (xferStep_phase_onBus v)
    | released => exact .ended rfl List.getLast?_concat (.inl rfl)
  | ended howner htrace hphase =>
    cases h with
    | rested => exact .ended howner htrace hphase
    | init _ _ hp hst => simp [hp, hst] at hphase
    | began hp | selected hp | sent hp | deselected hp | released hp => simp [hp] at hphase
    | returned => exact .ended howner htrace (.inr ⟨rfl, rfl⟩)

theorem busy_of_onBus (h : f.phase.onBus = true) : f.busy = true := by
  by_contra hb
  rcases idle_of_not_busy (Bool.eq_false_iff.2 hb) with ⟨hp, _⟩ | hp <;> rw [hp] at h <;> cases h

theorem Acted.bracketed (h : Acted s f w) (ho : s.busOwner = some a) (hp : f.phase.onBus = true) : w.Bracketed a := by
  have h0 : (s.view f).Bracketed a := .inside ho hp
  have hbusy : ¬f.busy = false := by simp [busy_of_onBus hp]
  refine acted_keeps (View.Bracketed a) h0 (fun w => (advance_advanced w).bracketed) ?hold ?raise ?accept ?readNone ?init
    ?xfer h
  case hold => exact fun _ _ _ => .inside ho hp
  case raise => exact fun _ _ hb => absurd hb hbusy
  case accept => exact fun _ _ hb => absurd hb hbusy
  case readNone => exact fun _ _ hb => absurd hb hbusy
  case init => exact fun _ hb => absurd hb hbusy
  case xfer => exact fun _ hx => (Advanced.sent hx).bracketed h0

/-! ### Every move leaves the transaction of the owner alone -/

/-- t is s after the turn u, with the transaction of the owner a undisturbed: the others made no bus event, and a owns
the bus until its End. -/
structure State.Undisturbed (a : Agent) (u : Option Turn) (s t : State) : Prop where
  others : ∀ (j : Nat) (f : Framer), a ≠ .framer j → s.insts[j]? = some f →
    ∃ f', t.insts[j]? = some f' ∧ f.AddsOffBus f'
  owner : t.busOwner = some a ∨ (t.busOwner = none ∧ ((a = .platform ∧ u = some .platformEnd) ∨
    ∃ k f', a = .framer k ∧ t.insts[k]? = some f' ∧ f'.trace.getLast? = some .busEnd))

/-- A move that makes no event and leaves the bus to its owner. -/
theorem undisturbed_of_quiet {u : Option Turn}
    (h : ∀ (j : Nat) (f : Framer), s.insts[j]? = some f → ∃ f', t.insts[j]? = some f' ∧ f'.trace = f.trace)
    (ho : t.busOwner = some a) : s.Undisturbed a u t := by
  refine ⟨fun j f _ hf => ?_, .inl ho⟩
  obtain ⟨f', hf', htrace⟩ := h j f hf
  exact ⟨f', hf', .of_eq htrace⟩

/-- The queues are no part of a history. -/
theorem modify_inbox_trace (j k : Nat) (g : List Record → List Record) (fs : List Framer) (hf : fs[k]? = some f) :
    ∃ f', (fs.modify j fun x => { x with inbox := g x.inbox })[k]? = some f' ∧ f'.trace = f.trace := by
  rw [List.getElem?_modify, hf]
  refine ⟨_, rfl, ?_⟩
  dsimp only
  split <;> rfl

/-- A framer's turn leaves it alone: by the invariant that framer is the owner exactly in the phases of its bracket. -/
theorem Acted.undisturbed {u : Option Turn} (h : Acted s f w) (hs : s.Inv) (hf : s.insts[s.cur]? = some f)
    (ho : s.busOwner = some a) : s.Undisturbed a u (s.put w) := by
  have hbus : a = .framer s.cur ↔ f.phase.onBus = true := by
    simpa [ho] using (coherent_view hs hf).inst.bus
  have hother : ∀ (j : Nat) (g : Framer), j ≠ s.cur → s.insts[j]? = some g →
      ∃ g', (s.put w).insts[j]? = some g' ∧ g.AddsOffBus g' := fun j g hj hg =>
    ⟨g, (put_other w j hj).trans hg, .of_eq rfl⟩
  by_cases ha : a = .framer s.cur
  · refine ⟨fun j g hj hg => hother j g (fun e => hj (e ▸ ha)) hg, ?_⟩
    cases h.bracketed ho (hbus.1 ha) with
    | inside howner => exact .inl howner
    | ended howner htrace => exact .inr ⟨howner, .inr ⟨s.cur, w.inst, ha, put_at w hf, htrace⟩⟩
  · have hw := h.outside ho (Bool.eq_false_iff.2 fun hp => ha (hbus.2 hp))
    refine ⟨fun j g _ hg => ?_, .inl hw.owner⟩
    by_cases hj : j = s.cur
    · subst hj
      cases hf.symm.trans hg
      exact ⟨w.inst, put_at w hf, hw.trace⟩
    · exact hother j g hj hg

theorem Moved.undisturbed {u : Option Turn} (h : Moved s u t) (hs : s.Inv) (ho : s.busOwner = some a) :
    s.Undisturbed a u t := by
  cases h with
  | passed => exact undisturbed_of_quiet (fun j f hf => ⟨f, hf, rfl⟩) ho
  | acted f w hf ha => exact ha.undisturbed hs hf ho
  | fetched f r go hgo i w hf hb hr hd ha =>
    have hpop : s.popInbox.Inv := inv_modify_inbox hs s.cur List.tail
    obtain ⟨hothers, howner⟩ := (Acted.did go hgo i w ha).undisturbed (u := u) hpop (popInbox_at hf) ho
    refine ⟨fun j g hj hg => ?_, howner⟩
    obtain ⟨g', hg', htrace⟩ := modify_inbox_trace s.cur j List.tail s.insts hg
    obtain ⟨g'', hg'', hadds⟩ := hothers j g' hj hg'
    exact ⟨g'', hg'', (Framer.AddsOffBus.of_eq htrace).trans hadds⟩
  | issued k r => exact undisturbed_of_quiet (fun j f hf => modify_inbox_trace k j (· ++ [r]) s.insts hf) ho
  | placed b slots => exact undisturbed_of_quiet (fun j f hf => ⟨f, hf, rfl⟩) ho
  | acquired _ hfree => rw [hfree] at ho; cases ho
  | released hu hplat =>
    cases hplat.symm.trans ho
    exact ⟨fun j f _ hf => ⟨f, hf, .of_eq rfl⟩, .inr ⟨rfl, .inl ⟨rfl, hu⟩⟩⟩

/-- Settles O55: while the bus is owned, framers outside their bracket make no bus event, and the owner's stays open up
to its End. -/
theorem transactionsDoNotInterleave : Obligations.TransactionsDoNotInterleave := by
  intro s t a hs h ho
  obtain ⟨ts, k, hm⟩ := step_cases h
  obtain ⟨hothers, howner⟩ := hm.undisturbed hs ho
  refine ⟨fun j f hj hf => ?_, howner⟩
  obtain ⟨f', hf', evs, htrace, hevs⟩ := hothers j f hj hf
  exact ⟨f', evs, hf', htrace, hevs⟩

end Sys2Proof.Machine
end

section
/-! PROOF. The statements on the encodings (30_encoding.md R71-R81): the address bytes, the decoder and its encoder, the
frame plan and the bus monitor. -/

namespace Sys2Proof

/-! ### The address bytes and the mask -/

variable (r : RegAddr)

@[simp] theorem addrReserved_addrWrite : addrReserved (addrWrite r) = false :=
  let ⟨_, _, hreserved, _⟩ := Laws.Form.addrW r; hreserved

@[simp] theorem addrIsRead_addrWrite : addrIsRead (addrWrite r) = false :=
  let ⟨_, hread, _⟩ := Laws.Form.addrW r; hread

@[simp] theorem addrReg_addrWrite : addrReg (addrWrite r) = r :=
  let ⟨_, _, _, hreg⟩ := Laws.Form.addrW r; hreg

@[simp] theorem addrReserved_addrRead : addrReserved (addrRead r) = false :=
  let ⟨_, _, hreserved, _⟩ := Laws.Form.addrR r; hreserved

@[simp] theorem addrIsRead_addrRead : addrIsRead (addrRead r) = true :=
  let ⟨_, hread, _⟩ := Laws.Form.addrR r; hread

@[simp] theorem addrReg_addrRead : addrReg (addrRead r) = r :=
  let ⟨_, _, _, hreg⟩ := Laws.Form.addrR r; hreg

/-- An address byte is its register with its direction (R71): the 256 bytes, one by one. -/
theorem addr_of_addrReg (b : Byte) (h : addrReserved b = false) :
    (if addrIsRead b then addrRead (addrReg b) else addrWrite (addrReg b)) = b := by
  revert b; decide

/-- Settles O1: the concatenations, register by register. -/
theorem addressBytesLaidOut : Obligations.AddressBytesLaidOut := by
  intro r
  have hlayout : addrWrite r = 0#1 ++ r ++ 0#1 ∧ addrWrite r = (r.setWidth 8 <<< 1) &&& 0xFE#8 ∧
      addrRead r = 1#1 ++ r ++ 0#1 := by revert r; decide
  obtain ⟨hwrite, hmasked, hread⟩ := hlayout
  exact ⟨rfl, hwrite, hmasked, rfl, hread⟩

theorem getLsbD_rxMask (ra : Align) {i : Nat} (hi : i < 8) : (rxMask ra).getLsbD i = decide (ra.toNat ≤ i) := by
  rw [rxMask, show 0xFF#8 = BitVec.allOnes 8 from rfl, BitVec.getLsbD_shiftLeft, BitVec.getLsbD_allOnes,
    decide_eq_true hi, decide_eq_true (show i - ra.toNat < 8 by omega), Bool.true_and, Bool.and_true, ← decide_not]
  simp

/-- Settles O2: a shifted 0xFF has the bits from the shift on; unshifted it keeps nothing of the old byte. -/
theorem rxMaskSetsHighBits : Obligations.RxMaskSetsHighBits := by
  refine ⟨fun _ => rfl, fun ra i hi => by rw [getLsbD_rxMask ra hi, decide_eq_true_iff], fun old rx => ?_⟩
  rw [Machine.rxMerge, show rxMask 0 = BitVec.allOnes 8 from rfl, BitVec.not_allOnes, BitVec.and_zero,
    BitVec.and_allOnes, BitVec.zero_or]

/-! ### The operands of a record (R80) -/

variable {countMax n : Nat} {e : Reject}

theorem decodeReg_ok_iff {a : RegAddr} : decodeReg n = .ok a ↔ a.toNat = n := by
  unfold decodeReg
  split
  · rename_i hn
    rw [Except.ok.injEq, ← BitVec.toNat_inj, BitVec.toNat_ofNat, Nat.mod_eq_of_lt hn, eq_comm]
  · have := a.isLt
    simp only [reduceCtorEq, false_iff]
    omega

theorem decodeCount_ok_iff {k : Int} : decodeCount countMax k = .ok n ↔ (n : Int) = k ∧ n ≤ countMax := by
  unfold decodeCount
  split <;> simp only [Except.ok.injEq, reduceCtorEq, false_iff] <;> omega

theorem decodeAlign_ok_iff {ra : Align} : decodeAlign n = .ok ra ↔ ra.toNat = n := by
  unfold decodeAlign
  split
  · rename_i hn
    rw [Except.ok.injEq, ← BitVec.toNat_inj, BitVec.toNat_ofNat, Nat.mod_eq_of_lt hn, eq_comm]
  · have := ra.isLt
    simp only [reduceCtorEq, false_iff]
    omega

theorem decodeReg_of_lt (h : n < 64) : decodeReg n = .ok (BitVec.ofNat 6 n) := if_pos h

theorem decodeReg_of_ge (h : 64 ≤ n) : decodeReg n = .error .regRange := if_neg (by omega)

theorem decodeCount_of_outside {k : Int} (h : k < 0 ∨ (countMax : Int) < k) :
    decodeCount countMax k = .error .countRange := if_neg (by omega)

theorem decodeCount_of_inside {k : Int} (h0 : 0 ≤ k) (h1 : k ≤ (countMax : Int)) :
    decodeCount countMax k = .ok k.toNat := if_pos ⟨h0, h1⟩

theorem decodeAlign_of_ge (h : 8 ≤ n) : decodeAlign n = .error .alignRange := if_neg (by omega)

/-- Settles O5: each check is made on its operand, once the checks before it have passed. -/
theorem boundaryRefusals : Obligations.BoundaryRefusals := by
  intro countMax record
  refine ⟨fun hop => ?_, fun hop hreg => ?_, fun hop hreg hcount => ?_, fun hop hreg h0 h1 halign => ?_⟩
  · obtain ⟨m, hm⟩ := Nat.exists_eq_add_of_le' hop
    simp only [decodeRecord, hm]
  · have hbad := decodeReg_of_ge hreg
    obtain h | h | h | h : record.op = 0 ∨ record.op = 1 ∨ record.op = 2 ∨ record.op = 3 := by omega
    all_goals simp only [decodeRecord, h, hbad]
  · have hbad := decodeCount_of_outside hcount
    rcases hop with h | h <;> simp only [decodeRecord, h, decodeReg_of_lt hreg, hbad]
  · simp only [decodeRecord, hop, decodeReg_of_lt hreg, decodeCount_of_inside h0 h1, decodeAlign_of_ge halign]

/-! ### The decoder against the encoder -/

/-- Settles O3: an operand that fits its field is read back by its own check, an address byte by its layout. -/
theorem decodeOfEncode : Obligations.DecodeOfEncode := by
  intro countMax i hwf
  have hreg : ∀ r : RegAddr, decodeReg r.toNat = .ok r := fun _ => decodeReg_ok_iff.2 rfl
  have halign : ∀ ra : Align, decodeAlign ra.toNat = .ok ra := fun _ => decodeAlign_ok_iff.2 rfl
  have hcount : ∀ n : Nat, countOk countMax n = true → decodeCount countMax n = .ok n := fun n h =>
    decodeCount_ok_iff.2 ⟨rfl, of_decide_eq_true h⟩
  cases i with
  | write1 r x => simp only [encode, encodeRecord, decode, decodeRecord, hreg]
  | writen r n b => simp only [encode, encodeRecord, decode, decodeRecord, hreg, hcount n hwf]
  | read1 r => simp only [encode, encodeRecord, decode, decodeRecord, hreg]
  | readn r n b ra => simp only [encode, encodeRecord, decode, decodeRecord, hreg, hcount n hwf, halign]
  | init | reserved5 | reserved6 | reserved7 | dummy => rfl
  | addrW r => simp [encode, decode, decodeWire]
  | addrR r => simp [encode, decode, decodeWire]

/-- A wire byte that decodes is the encoding of what it decodes to. -/
theorem decodeWire_sound {pos : WirePos} {b : Byte} {i : Instr} (h : decodeWire pos b = .ok i) :
    i.wf countMax = true ∧ encode i = .wire pos b := by
  cases pos with
  | address =>
    simp only [decodeWire] at h
    cases hreserved : addrReserved b with
    | true => simp [hreserved] at h
    | false =>
      have hb := addr_of_addrReg b hreserved
      cases hread : addrIsRead b <;> simp only [hreserved, hread, if_true, if_false, Bool.false_eq_true] at h hb <;>
        cases h <;> exact ⟨rfl, congrArg (Code.wire .address) hb⟩
  | readEnd =>
    simp only [decodeWire] at h
    split at h
    · rename_i hb
      cases h
      exact ⟨rfl, by rw [hb]; rfl⟩
    · cases h

/-- Settles O4: each operand of an accepted record is what its check accepted. -/
theorem decodedIsWhatWasWritten : Obligations.DecodedIsWhatWasWritten := by
  intro countMax c i h
  cases c with
  | wire pos b => exact decodeWire_sound h
  | command record =>
    simp only [decode, decodeRecord] at h
    split at h
    case h_1 hop =>
      split at h <;> cases h
      rename_i a ha
      exact ⟨rfl, hop.symm, decodeReg_ok_iff.1 ha, rfl⟩
    case h_2 hop =>
      split at h
      · rename_i a ha
        split at h <;> cases h
        rename_i n hn
        obtain ⟨hcount, hmax⟩ := decodeCount_ok_iff.1 hn
        exact ⟨decide_eq_true hmax, hop.symm, decodeReg_ok_iff.1 ha, hcount, rfl⟩
      · cases h
    case h_3 hop =>
      split at h <;> cases h
      rename_i a ha
      exact ⟨rfl, hop.symm, decodeReg_ok_iff.1 ha⟩
    case h_4 hop =>
      split at h
      · rename_i a ha
        split at h
        · rename_i n hn
          split at h <;> cases h
          rename_i ra hra
          obtain ⟨hcount, hmax⟩ := decodeCount_ok_iff.1 hn
          exact ⟨decide_eq_true hmax, hop.symm, decodeReg_ok_iff.1 ha, hcount, rfl, decodeAlign_ok_iff.1 hra⟩
        · cases h
      · cases h
    case h_9 => cases h
    all_goals
      rename_i hop
      cases h
      exact ⟨rfl, hop.symm, trivial⟩

/-! ### The frame plan and the bus monitor -/

/-- Settles O6: the plans are written out, but for READN's repeated address byte. -/
theorem framePlanLengths : Obligations.FramePlanLengths := by
  intro vals i plan h
  cases i with
  | write1 | read1 | writen => cases h; rfl
  | readn r n b ra =>
    simp only [planTx] at h
    split at h <;> cases h
    exact ⟨by omega, by simp⟩
  | init | reserved5 | reserved6 | reserved7 | addrW | addrR | dummy => cases h

theorem decodeFrame_addrWrite (data : List Byte) : decodeFrame (addrWrite r :: data) = .ok (.write r data) := by
  simp [decodeFrame]

/-- The monitor accepts the address byte any number of times before the dummy (R78). -/
theorem isReadTail_replicate (a : Byte) (n : Nat) : isReadTail a (List.replicate n a ++ [dummyByte]) = true := by
  induction n with
  | zero => rfl
  | succ n ih =>
    have hcons : ∀ l : List Byte, isReadTail a l = true → isReadTail a (a :: l) = true := by
      intro l hl
      cases l with
      | nil => cases hl
      | cons c rest => simpa [isReadTail] using hl
    exact hcons _ ih

theorem decodeFrame_addrRead (n : Nat) :
    decodeFrame (addrRead r :: (List.replicate n (addrRead r) ++ [dummyByte])) = .ok (.read r (n + 1)) := by
  simp [decodeFrame, isReadTail_replicate]

/-- Settles O7: a write frame is its address byte and its data; a read frame one address byte for each byte asked for. -/
theorem monitorReadsEveryPlannedFrame : Obligations.MonitorReadsEveryPlannedFrame := by
  intro vals i plan h
  cases i with
  | write1 r x => cases h; exact decodeFrame_addrWrite r [x]
  | writen r n b => cases h; exact decodeFrame_addrWrite r vals
  | read1 r => cases h; exact decodeFrame_addrRead r 0
  | readn r n b ra =>
    cases n with
    | zero => cases h
    | succ n => cases h; exact decodeFrame_addrRead r n
  | init | reserved5 | reserved6 | reserved7 | addrW | addrR | dummy => cases h

end Sys2Proof
end

section
/-! PROOF. The statements on the wire byte forms (30_encoding.md R72-R74, R78), and the refusals of R80 that exec
makes. -/

namespace Sys2Proof.Machine

variable {s : State} {f : Framer} {i : Instr} (v : View)

/-! ### The refusals of exec -/

/-- Settles O23: their arms look at nothing. -/
theorem reservedSelectorsRefused : Obligations.ReservedSelectorsRefused := fun _ => ⟨rfl, rfl, rfl⟩

/-- Settles O24: the count is checked before the framer is looked at. -/
theorem countAboveMaximumRefused : Obligations.CountAboveMaximumRefused := by
  intro r n b ra s hn
  have hc : ¬countOk s.countMax n = true := by simpa [countOk] using hn
  exact ⟨if_neg hc, if_neg hc⟩

/-! ### A wire form -/

theorem exec_wire (hi : i = .dummy ∨ ∃ r, i = .addrW r ∨ i = .addrR r) :
    exec i s = s.onSelf (View.wireStep (encode i)) := by
  rcases hi with rfl | ⟨r, rfl | rfl⟩ <;> rfl

/-- A wire form that is the next byte of the open frame is that transfer. -/
theorem exec_wire_sent (hi : i = .dummy ∨ ∃ r, i = .addrW r ∨ i = .addrR r) (hat : s.insts[s.cur]? = some f)
    (hn : f.fault = none) (hp : f.phase = .xfer) (hw : f.nextWire = some (encode i)) :
    exec i s = .next (s.put (s.view f).xferStep) := by
  rw [exec_wire hi]
  exact onSelf_next_of hat (by simp [View.wireStep, hn, hp, hw])

/-- Settles O28: the sequencer is not about to send that byte. -/
theorem wireByteOutOfPlaceRefused : Obligations.WireByteOutOfPlaceRefused := by
  intro i s f hat hn hi hout
  have hplace : ¬(f.phase = .xfer ∧ f.nextWire = some (encode i)) := not_and_or.2 hout
  rw [exec_wire hi]
  exact onSelf_refused_of hat (by rw [View.wireStep, view_inst, hn, if_neg hplace]; rfl)

/-- The next byte of a write frame at its start is an address byte. -/
theorem nextWire_write {b : Byte} (ho : f.dp.opr = .write1 ∨ f.dp.opr = .writen) (hk : f.k = 0)
    (hb : f.dp.plan[f.k]? = some b) : f.nextWire = some (.wire .address b) := by
  rcases ho with ho | ho <;> simp only [Framer.nextWire, hb, ho, if_pos hk]

/-- The next byte of a read frame is an address byte, but for its last. -/
theorem nextWire_read {b : Byte} (ho : f.dp.opr = .read1 ∨ f.dp.opr = .readn) (hb : f.dp.plan[f.k]? = some b) :
    f.nextWire = some (.wire (if f.k + 1 < f.dp.plan.length then .address else .readEnd) b) := by
  rcases ho with ho | ho <;> simp only [Framer.nextWire, hb, ho] <;> split <;> rfl

/-- What a transfer leaves of the framer, but for its datapath and its history. -/
theorem xferStep_frame {tx : Byte} (h : v.inst.dp.plan[v.inst.k]? = some tx) :
    v.inst.SamePins v.xferStep.inst ∧ v.xferStep.inst.rxIn = v.inst.rxIn.drop 1 ∧ v.xferStep.inst.k = v.inst.k + 1 ∧
    v.xferStep.inst.phase = (if v.inst.k + 1 < v.inst.dp.plan.length then .xfer else .desel) := by
  have hk := xferStep_kept v
  obtain ⟨hlt, _⟩ := List.getElem?_eq_some_iff.1 h
  exact ⟨⟨hk.cs, hk.rst, hk.lvlIn⟩, xferStep_rxIn v hlt, xferStep_k v hlt, xferStep_phase v hlt⟩

/-- Settles O25: the transfer reads and stores no slot. -/
theorem addrWIsFirstTransferOfWrite : Obligations.AddrWIsFirstTransferOfWrite := by
  intro r s f hat hn hp hk ho hb
  rw [← hk] at hb
  have hnr : f.dp.opr ≠ .read1 := by rcases ho with ho | ho <;> simp [ho]
  have hkept := xferStep_kept (s.view f)
  obtain ⟨hpins, hrx, hk', hphase⟩ := xferStep_frame (s.view f) hb
  obtain ⟨htrace, hbufs, hdp⟩ := xferStep_plain (s.view f) (addrWrite r) hb (fun h => h.2 hk) (fun h => h.2 hk)
  refine ⟨_, _, exec_wire_sent (.inr ⟨r, .inl rfl⟩) hat hn hp (nextWire_write ho hk hb), put_became _, hpins, htrace,
    hrx, ?_, ?_, ?_, hkept.cfg, hkept.fault.trans hn, hkept.results, hkept.inbox, hkept.owner, hbufs⟩
  · rw [hk', view_inst, hk]
  · rw [hphase, view_inst, hk]
  · simpa [hnr, State.rx] using hdp

/-- One transfer of a read frame: READ1's result is the byte of transfer 1, and a READN past its priming transfer stores
the byte (41_register_read.md R124). -/
theorem xferStep_read {tx : Byte} (h : v.inst.dp.plan[v.inst.k]? = some tx)
    (ho : v.inst.dp.opr = .read1 ∨ v.inst.dp.opr = .readn) :
    v.xferStep.inst.trace =
      v.inst.trace ++ .xfer tx (rxNth v.inst.rxIn v.free 0) :: v.inst.storeEvents (rxNth v.inst.rxIn v.free 0) ∧
    v.xferStep.bufs = (if v.inst.stores then v.bufs.modify v.inst.dp.buf (fun b =>
      b.write v.inst.dp.idx (v.inst.storeByte (rxNth v.inst.rxIn v.free 0))) else v.bufs) ∧
    v.xferStep.inst.dp = { v.inst.dp with
      rxl := rxNth v.inst.rxIn v.free 0,
      idx := if v.inst.stores then v.inst.dp.idx + 1 else v.inst.dp.idx,
      res := if v.inst.dp.opr = .read1 ∧ v.inst.k = 1 then .byte (rxNth v.inst.rxIn v.free 0) else v.inst.dp.res } := by
  by_cases hst : v.inst.dp.opr = .readn ∧ v.inst.k ≠ 0
  · obtain ⟨hr, hk⟩ := hst
    have hstores : v.inst.stores = true := by simp [Framer.stores, hr, hk]
    obtain ⟨htrace, hbufs, hdp⟩ := xferStep_store v tx h hr hk
    refine ⟨htrace, by rw [if_pos hstores, hbufs], ?_⟩
    simp [hdp, hstores, hr]
  · have hstores : v.inst.stores = false := by
      rw [Bool.eq_false_iff]
      simpa [Framer.stores] using hst
    have hw : ¬(v.inst.dp.opr = .writen ∧ v.inst.k ≠ 0) := by rcases ho with ho | ho <;> simp [ho]
    obtain ⟨htrace, hbufs, hdp⟩ := xferStep_plain v tx h hw hst
    simp [htrace, hbufs, hdp, hstores, Framer.storeEvents]

/-- After a transfer of a read frame, the slot its store goes to holds the stored byte, and every other slot what it held. -/
theorem xferStep_read_slots {tx : Byte} (h : v.inst.dp.plan[v.inst.k]? = some tx)
    (ho : v.inst.dp.opr = .read1 ∨ v.inst.dp.opr = .readn) :
    (v.inst.stores = true → v.inst.dp.idx < (bufAt v.bufs v.inst.dp.buf).len →
      (bufAt v.xferStep.bufs v.inst.dp.buf).read v.inst.dp.idx =
        some (v.inst.storeByte (rxNth v.inst.rxIn v.free 0))) ∧
    (∀ c i, ¬(v.inst.stores = true ∧ c = v.inst.dp.buf ∧ i = v.inst.dp.idx) →
      (bufAt v.xferStep.bufs c).read i = (bufAt v.bufs c).read i) := by
  obtain ⟨_, hbufs, _⟩ := xferStep_read v h ho
  rw [hbufs]
  refine ⟨fun hst hlt => by rw [if_pos hst, bufAt_write_same _ _ _ _ hlt], fun c i hc => ?_⟩
  split
  · rename_i hst
    exact bufAt_write_other _ _ _ _ _ _ (not_and_or.1 fun hci => hc ⟨hst, hci⟩)
  · rfl

/-- Settles O26: a transfer of a read frame, not the last. -/
theorem addrRIsTransferOfRead : Obligations.AddrRIsTransferOfRead := by
  intro r s f hat hn hp ho hb hk
  have hw : f.nextWire = some (encode (.addrR r)) := by rw [nextWire_read ho hb, if_pos hk]; rfl
  have hkept := xferStep_kept (s.view f)
  obtain ⟨hpins, hrx, hk', hphase⟩ := xferStep_frame (s.view f) hb
  obtain ⟨htrace, _, hdp⟩ := xferStep_read (s.view f) hb ho
  obtain ⟨hstored, hother⟩ := xferStep_read_slots (s.view f) hb ho
  exact ⟨_, _, exec_wire_sent (.inr ⟨r, .inr rfl⟩) hat hn hp hw, put_became _, hpins, htrace, hrx, hk',
    hphase.trans (if_pos hk), by rw [hdp]; rfl, by rw [hdp]; rfl, hkept.cfg, hkept.fault.trans hn, hkept.results,
    hkept.inbox, hkept.owner, hstored, hother⟩

/-- Settles O27: the last transfer of a read frame. -/
theorem dummyIsLastTransferOfRead : Obligations.DummyIsLastTransferOfRead := by
  intro s f hat hn hp ho hb hk
  have hlast : ¬f.k + 1 < f.dp.plan.length := by omega
  have hw : f.nextWire = some (encode .dummy) := by rw [nextWire_read ho hb, if_neg hlast]; rfl
  have hkept := xferStep_kept (s.view f)
  obtain ⟨hpins, hrx, hk', hphase⟩ := xferStep_frame (s.view f) hb
  obtain ⟨htrace, _, hdp⟩ := xferStep_read (s.view f) hb ho
  obtain ⟨hstored, hother⟩ := xferStep_read_slots (s.view f) hb ho
  refine ⟨_, _, exec_wire_sent (.inl rfl) hat hn hp hw, put_became _, hpins, htrace, hrx, hk', hphase.trans (if_neg hlast),
    by rw [hdp]; rfl, fun h1 hk1 => ?_, fun hr => ?_, hkept.cfg, hkept.fault.trans hn, hkept.results, hkept.inbox,
    hkept.owner, hstored, hother⟩
  · rw [hdp]
    exact if_pos ⟨h1, hk1⟩
  · rw [hdp]
    exact if_neg (by simp [hr])

/-- Settles O43: a framer in XFER is busy, and its turn decodes the byte it is about to send. -/
theorem stepRunsDecodedWireByte : Obligations.StepRunsDecodedWireByte := by
  intro s f c i k ts hts hat hp hw hd
  have hb : f.busy = true := by simp only [Framer.busy, hp]
  simp only [step, State.nextTurn, hts, State.takeTurn, State.turnEvent, hat, hb, hp, hw, hd, if_true]

end Sys2Proof.Machine
end

section
/-! PROOF. The two forms of a transfer of one byte (30_encoding.md R84): the frames of the four transfers as their events,
and the bracket around them. -/

namespace Sys2Proof.Machine

variable {s : State} {f : Framer} (v : View) (r : RegAddr)

/-! ### The events of a frame -/

/-- A transfer accepted on a free bus makes its bracket around the events of its frame. -/
theorem finish_accept_bracket {d : Datapath} {evs : List Event} (hfree : v.owner = none) (hcs : v.inst.cs = Pin.deselected)
    (h : ((v.opened d).xferMany d.plan.length).inst.trace = (v.opened d).inst.trace ++ evs) :
    (v.accept d).finish.inst.trace = v.inst.trace ++ bracket v.inst.cfg.bus evs ∧
    (v.accept d).finish.inst.results =
      v.inst.results ++ [((v.opened d).xferMany d.plan.length).inst.dp.res] ∧
    (v.accept d).finish.bufs = ((v.opened d).xferMany d.plan.length).bufs := by
  obtain ⟨u, hu, _, hbufs, _, htrace, hresults, _⟩ := finish_accept_spec v d hfree hcs _ rfl
  rw [hu]
  refine ⟨?_, hresults, hbufs⟩
  rw [htrace, h, opened_trace]
  simp [bracket]

/-- The frame `[a, b]` of WRITE1 and READ1. -/
theorem xferMany_single {d : Datapath} {a b : Byte} (hd : v.inst.dp = d) (hk : v.inst.k = 0) (hp : d.plan = [a, b])
    (ho : d.opr = .write1 ∨ d.opr = .read1) :
    (v.xferMany 2).inst.trace =
      v.inst.trace ++ [.xfer a (rxNth v.inst.rxIn v.free 0), .xfer b (rxNth v.inst.rxIn v.free 1)] ∧
    (v.xferMany 2).inst.dp.res = if d.opr = .read1 then .byte (rxNth v.inst.rxIn v.free 1) else d.res := by
  subst hd
  have hlt : v.inst.k < v.inst.dp.plan.length := by simp [hp, hk]
  have hkept := xferStep_kept v
  have hk1 : v.xferStep.inst.k = 1 := by rw [xferStep_k v hlt, hk]
  have hw : v.inst.dp.opr ≠ .writen := by rcases ho with ho | ho <;> simp [ho]
  have hr : v.inst.dp.opr ≠ .readn := by rcases ho with ho | ho <;> simp [ho]
  obtain ⟨ht0, _, hdp0⟩ := xferStep_plain v a (by simp [hp, hk]) (fun h => hw h.1) (fun h => hr h.1)
  obtain ⟨ht1, _, hdp1⟩ := xferStep_plain v.xferStep b (by simp [hkept.plan, hp, hk1])
    (fun h => hw (hkept.opr.symm.trans h.1)) (fun h => hr (hkept.opr.symm.trans h.1))
  rw [xferStep_rx v hlt] at ht1 hdp1
  rw [show v.xferMany 2 = v.xferStep.xferStep from rfl]
  refine ⟨?_, ?_⟩
  · rw [ht1, ht0, List.append_assoc]
    rfl
  · rw [hdp1, hkept.opr, hk1, hdp0]
    simp [hk]

/-- WRITEN's frame: the address byte, then its loop (40_register_write.md R103). -/
theorem xferMany_writen_frame {d : Datapath} {vals : List Byte} {a : Byte} (hd : v.inst.dp = d) (hk : v.inst.k = 0)
    (hp : d.plan = a :: vals) (hi : d.idx = 0) (ho : d.opr = .writen) :
    (v.xferMany (vals.length + 1)).inst.trace = v.inst.trace ++
      .xfer a (rxNth v.inst.rxIn v.free 0) :: writeLoop (rxNth v.inst.rxIn v.free) 0 vals := by
  subst hd
  have hlt : v.inst.k < v.inst.dp.plan.length := by simp [hp, hk]
  have hkept := xferStep_kept v
  obtain ⟨ht0, _, hdp0⟩ := xferStep_plain v a (by simp [hp, hk]) (fun h => h.2 hk) (fun h => h.2 hk)
  obtain ⟨ht, _, _⟩ := xferMany_writen v.xferStep vals 0 (rxNth v.inst.rxIn v.free) (hkept.opr.trans ho)
    (by rw [xferStep_k v hlt, hk]) (by rw [hdp0, hi]) (by rw [hkept.plan, hp]; rfl)
    (fun j => by rw [xferStep_rx v hlt]; congr 1; omega)
  rw [xferMany_succ, ht, ht0, List.append_assoc]
  rfl

/-- READN's frame: the priming transfer, then its loop (41_register_read.md R123). -/
theorem xferMany_readn_frame {d : Datapath} {n : Nat} (hd : v.inst.dp = d) (hk : v.inst.k = 0) (hn : 1 ≤ n)
    (hp : d.plan = List.replicate n (addrRead r) ++ [dummyByte]) (hi : d.idx = 0) (ho : d.opr = .readn)
    (hmask : d.mask = rxMask d.ra) (hl : n ≤ (bufAt v.bufs d.buf).len) :
    (v.xferMany (n + 1)).inst.trace = v.inst.trace ++ .xfer (addrRead r) (rxNth v.inst.rxIn v.free 0) ::
      (List.range n).flatMap (readIteration r n d.ra d.old (rxNth v.inst.rxIn v.free)) ∧
    (∀ j < n, (bufAt (v.xferMany (n + 1)).bufs d.buf).read j =
      some (readValue d.ra d.old (rxNth v.inst.rxIn v.free) j)) := by
  subst hd
  have hlt : v.inst.k < v.inst.dp.plan.length := by simp [hp, hk]
  have hkept := xferStep_kept v
  have hb : v.inst.dp.plan[v.inst.k]? = some (addrRead r) := by
    rw [hp, hk, List.getElem?_append_left (by simp; omega), List.getElem?_replicate, if_pos (by omega)]
  obtain ⟨ht0, hb0, hdp0⟩ := xferStep_plain v (addrRead r) hb (fun h => h.2 hk) (fun h => h.2 hk)
  obtain ⟨ht, _, _, hread, _⟩ := xferMany_readn v.xferStep n 0 n r (rxNth v.inst.rxIn v.free) (by omega)
    (hkept.opr.trans ho) (by rw [xferStep_k v hlt, hk]) (by rw [hdp0, hi]) (by rw [hkept.mask, hkept.ra, hmask])
    (by rw [hkept.plan, hp]) (fun j => by rw [xferStep_rx v hlt]; congr 1; omega) (by rw [hb0, hkept.buf]; exact hl)
  rw [hkept.ra, hkept.old] at ht hread
  rw [hkept.buf] at hread
  refine ⟨?_, fun j hj => hread j (Nat.zero_le j) hj⟩
  rw [xferMany_succ, ht, ht0, List.append_assoc, ← List.range_eq_range']
  rfl

/-! ### The events of an operation -/

/-- A transfer that is ready and passes its checks makes its bracket around the events of its frame. -/
theorem State.Passes.exec_bracket {i : Instr} {d : Datapath} {m : Nat} {evs : List Event} (h : s.Passes f i)
    (hr : s.Ready f) (hevs : (((s.view f).opened d).xferMany m).inst.trace = ((s.view f).opened d).inst.trace ++ evs)
    (hd : loadOf i (s.view f) = d) (hm : d.plan.length = m) :
    ∃ t f', exec i s = .next t ∧ s.Became f' t ∧ f'.trace = f.trace ++ bracket f.cfg.bus evs ∧
      f'.results = f.results ++ [(((s.view f).opened d).xferMany m).inst.dp.res] ∧
      t.bufs = (((s.view f).opened d).xferMany m).bufs := by
  obtain ⟨hfree, hcs, ho⟩ := hr
  subst hd hm
  obtain ⟨htrace, hresults, hbufs⟩ := finish_accept_bracket (s.view f) ho hcs hevs
  exact ⟨_, _, h.exec_eq hfree, put_became _, htrace, hresults, hbufs⟩

/-- WRITE1's events (40_register_write.md R100). -/
theorem exec_write1_ready (x : Byte) (hr : s.Ready f) :
    ∃ t f', exec (.write1 r x) s = .next t ∧ s.Became f' t ∧
      f'.trace = f.trace ++ bracket f.cfg.bus [.xfer (addrWrite r) (s.rx f 0), .xfer x (s.rx f 1)] := by
  have ⟨_, hcs, _⟩ := hr
  have hp : s.Passes f (.write1 r x) := hcs
  obtain ⟨hevs, _⟩ := xferMany_single _ (opened_dp (s.view f) (loadWrite1 r x f.dp)) (opened_k _ _) rfl (.inl rfl)
  rw [opened_rxIn] at hevs
  obtain ⟨t, f', ht, hb, htrace, _⟩ := hp.exec_bracket hr hevs rfl rfl
  exact ⟨t, f', ht, hb, htrace⟩

/-- WRITEN's events, for the values its slots hold (40_register_write.md R103). -/
theorem exec_writen_ready {b : Nat} {vals : List Byte} (hr : s.Ready f) (hp : s.Passes f (.writen r vals.length b))
    (hvals : ∀ i < vals.length, (bufAt s.bufs b).read i = vals[i]?) :
    ∃ t f', exec (.writen r vals.length b) s = .next t ∧ s.Became f' t ∧
      f'.trace = f.trace ++ bracket f.cfg.bus (.xfer (addrWrite r) (s.rx f 0) :: writeLoop (s.rx f) 0 vals) := by
  have hload : loadOf (.writen r vals.length b) (s.view f) = loadWriten r vals.length b vals f.dp := by
    simp only [loadOf, view_bufs, view_inst, slotVals_eq _ _ vals rfl hvals]
  have hevs := xferMany_writen_frame _ (opened_dp (s.view f) (loadWriten r vals.length b vals f.dp)) (opened_k _ _)
    rfl rfl rfl
  rw [opened_rxIn] at hevs
  obtain ⟨t, f', ht, hb, htrace, _⟩ := hp.exec_bracket hr hevs hload rfl
  exact ⟨t, f', ht, hb, htrace⟩

/-- READ1's events and result (41_register_read.md R120, R121). -/
theorem exec_read1_ready (hr : s.Ready f) :
    ∃ t f', exec (.read1 r) s = .next t ∧ s.Became f' t ∧
      f'.trace = f.trace ++ bracket f.cfg.bus [.xfer (addrRead r) (s.rx f 0), .xfer dummyByte (s.rx f 1)] ∧
      f'.results = f.results ++ [.byte (s.rx f 1)] := by
  have ⟨_, hcs, _⟩ := hr
  have hp : s.Passes f (.read1 r) := hcs
  obtain ⟨hevs, hres⟩ := xferMany_single _ (opened_dp (s.view f) (loadRead1 r f.dp)) (opened_k _ _) rfl (.inr rfl)
  rw [opened_rxIn] at hevs hres
  obtain ⟨t, f', ht, hb, htrace, hresults, _⟩ := hp.exec_bracket hr hevs rfl rfl
  exact ⟨t, f', ht, hb, htrace, by rw [hresults, hres]; rfl⟩

/-- READN's events and stores, with slot 0's value at entry where it is merged (41_register_read.md R123, R125). -/
theorem exec_readn_ready {n b : Nat} {ra : Align} {old : Byte} (hr : s.Ready f) (hp : s.Passes f (.readn r n b ra))
    (hold : ((bufAt s.bufs b).read 0).getD f.dp.old = old) :
    ∃ t f', exec (.readn r n b ra) s = .next t ∧ s.Became f' t ∧
      f'.trace = f.trace ++ bracket f.cfg.bus (.xfer (addrRead r) (s.rx f 0) ::
        (List.range n).flatMap (readIteration r n ra old (s.rx f))) ∧
      ∀ j < n, (bufAt t.bufs b).read j = some (readValue ra old (s.rx f) j) := by
  subst hold
  have ⟨_, hn, _, hl, _⟩ := hp
  have hplan : (loadReadn r n b ra ((bufAt s.bufs b).read 0) f.dp).plan = List.replicate n (addrRead r) ++ [dummyByte] := by
    simp [loadReadn, planOf, planTx, show n ≠ 0 by omega]
  obtain ⟨hevs, hslots⟩ := xferMany_readn_frame _ r
    (opened_dp (s.view f) (loadReadn r n b ra ((bufAt s.bufs b).read 0) f.dp)) (opened_k _ _) hn hplan rfl rfl rfl hl
  rw [opened_rxIn] at hevs hslots
  obtain ⟨t, f', ht, hb, htrace, _, hbufs⟩ := hp.exec_bracket hr hevs rfl (by simp [hplan])
  exact ⟨t, f', ht, hb, htrace, by rw [hbufs]; exact hslots⟩

/-- Settles O57: WRITEN of one slot reads it besides; READN of one slot writes it besides, with the byte of transfer 1. -/
theorem singleFormsMatchBlockForms : Obligations.SingleFormsMatchBlockForms := by
  intro r x b s f hr hmax hlen hlent
  have ⟨_, hcs, _⟩ := hr
  refine ⟨fun hx => ?_, ?_⟩
  · have hslot : ∀ i < 1, (bufAt s.bufs b).read i = ([x] : List Byte)[i]? := fun i hi => by
      rw [Nat.lt_one_iff.1 hi, hx]; rfl
    have hp : s.Passes f (.writen r 1 b) :=
      ⟨hcs, hmax, hlen, fun i hi => by rw [Nat.lt_one_iff.1 hi, hx]; exact nofun, .inr hlent⟩
    obtain ⟨t, f', ht, hf', hes⟩ := exec_write1_ready r x hr
    obtain ⟨u, g', hu, hg', hfs⟩ := exec_writen_ready r (vals := [x]) hr hp hslot
    exact ⟨t, u, f', g', _, _, ht, hu, hf', hg', hes, hfs, rfl, rfl⟩
  · have hp : s.Passes f (.readn r 1 b 0) := ⟨hcs, le_refl 1, hmax, hlen, .inl rfl, hlent⟩
    obtain ⟨t, f', ht, hf', hes, hres⟩ := exec_read1_ready r hr
    obtain ⟨u, g', hu, hg', hfs, hread⟩ := exec_readn_ready r hr hp rfl
    exact ⟨t, u, f', g', _, _, _, ht, hu, hf', hg', hes, hfs, rfl, hres, hread 0 Nat.one_pos⟩

end Sys2Proof.Machine
end

section
/-! PROOF. The statements on the register writes (40_register_write.md): WRITE1 and WRITEN from their command to their
return; and the frame of memory, which only a READN stores to. -/

namespace Sys2Proof.Machine

variable {s : State} {f : Framer} (v : View) {w : View} {i : Instr}

/-! ### What the transfers of a frame leave -/

/-- Every transfer of the frame consumes one answer of the BUS. -/
theorem xferMany_rxIn (m : Nat) (h : v.inst.k + m ≤ v.inst.dp.plan.length) :
    (v.xferMany m).inst.rxIn = v.inst.rxIn.drop m := by
  induction m generalizing v with
  | zero => rfl
  | succ m ih =>
    have hlt : v.inst.k < v.inst.dp.plan.length := by omega
    have hrest : v.xferStep.inst.k + m ≤ v.xferStep.inst.dp.plan.length := by
      rw [xferStep_k v hlt, (xferStep_kept v).plan]
      omega
    rw [xferMany_succ, ih _ hrest, xferStep_rxIn v hlt, List.drop_drop, Nat.add_comm]

/-- Only a READ1 takes its result from a transfer (10_state.md R27). -/
theorem xferStep_res (ho : v.inst.dp.opr ≠ .read1) : v.xferStep.inst.dp.res = v.inst.dp.res := by
  cases htx : v.inst.dp.plan[v.inst.k]? with
  | none => simp only [View.xferStep, htx, goto_inst_dp]
  | some tx =>
    by_cases hw : v.inst.dp.opr = .writen ∧ v.inst.k ≠ 0
    · obtain ⟨_, hdp⟩ := xferStep_data v tx htx hw.1 hw.2
      rw [hdp]
    · by_cases hs : v.inst.dp.opr = .readn ∧ v.inst.k ≠ 0
      · obtain ⟨_, _, hdp⟩ := xferStep_store v tx htx hs.1 hs.2
        rw [hdp]
      · obtain ⟨_, _, hdp⟩ := xferStep_plain v tx htx hw hs
        rw [hdp]
        exact if_neg fun h => ho h.1

theorem xferMany_res (m : Nat) (ho : v.inst.dp.opr ≠ .read1) : (v.xferMany m).inst.dp.res = v.inst.dp.res := by
  induction m generalizing v with
  | zero => rfl
  | succ m ih => rw [xferMany_succ, ih _ (by rwa [(xferStep_kept v).opr]), xferStep_res v ho]

/-! ### From the command to the return -/

/-- A transfer that is ready and passes its checks returns: the bracket around the events of its frame, and one answer
of the BUS consumed for every byte of it (40_register_write.md R101). -/
theorem State.Passes.exec_returned {d : Datapath} {m : Nat} {evs : List Event} (h : s.Passes f i) (hr : s.Ready f)
    (hd : loadOf i (s.view f) = d) (hm : d.plan.length = m)
    (hevs : (((s.view f).opened d).xferMany m).inst.trace = ((s.view f).opened d).inst.trace ++ evs) :
    ∃ t f', exec i s = .next t ∧ s.Became f' t ∧ f.SamePins f' ∧
      f.Returned (bracket f.cfg.bus evs) (((s.view f).opened d).xferMany m).inst.dp.res m f' ∧
      t.busOwner = none ∧ t.bufs = (((s.view f).opened d).xferMany m).bufs := by
  obtain ⟨hfree, hcs, ho⟩ := hr
  have ⟨_, hn, _⟩ := hfree
  subst hd hm
  obtain ⟨htrace, _⟩ := finish_accept_bracket (s.view f) ho hcs hevs
  obtain ⟨u, hu, howner, hbufs, _, _, hresults, hrx, hphase, hk, hat, hcfg, hfault, hinbox, hcs', hrst, hlvl⟩ :=
    finish_accept_spec (s.view f) _ ho hcs _ rfl
  rw [hu] at htrace
  rw [xferMany_rxIn _ _ (by simp), opened_rxIn] at hrx
  exact ⟨_, u.inst, by rw [h.exec_eq hfree, hu], put_became u, ⟨hcs', hrst, hlvl⟩,
    ⟨htrace, hresults, hrx, hphase, hk, hat, hcfg, hfault.trans hn, hinbox⟩, howner, hbufs⟩

/-- A write returns nothing, discards what it receives (R105), and leaves the buffers as they are. -/
theorem State.Passes.exec_write_returned {d : Datapath} {m : Nat} {evs : List Event} (h : s.Passes f i) (hr : s.Ready f)
    (hd : loadOf i (s.view f) = d) (hm : d.plan.length = m)
    (hevs : (((s.view f).opened d).xferMany m).inst.trace = ((s.view f).opened d).inst.trace ++ evs)
    (ho : d.opr = .write1 ∨ d.opr = .writen) (hres : d.res = .none) :
    ∃ t f', exec i s = .next t ∧ s.Became f' t ∧ f.SamePins f' ∧ f.Returned (bracket f.cfg.bus evs) .none m f' ∧
      t.busOwner = none ∧ t.bufs = s.bufs := by
  have hr1 : ((s.view f).opened d).inst.dp.opr ≠ .read1 := by rcases ho with ho | ho <;> simp [ho]
  have hrn : ((s.view f).opened d).inst.dp.opr ≠ .readn := by rcases ho with ho | ho <;> simp [ho]
  have hret := h.exec_returned hr hd hm hevs
  rw [xferMany_res _ _ hr1, xferMany_bufs _ _ hrn, opened_dp, hres] at hret
  exact hret

/-- Settles O10: WRITE1's frame is its address byte and its data byte, and it reads no slot. -/
theorem write1SendsAddressThenData : Obligations.Write1SendsAddressThenData := by
  intro r x s f hr
  have ⟨_, hcs, _⟩ := hr
  have hp : s.Passes f (.write1 r x) := hcs
  obtain ⟨hevs, _⟩ := xferMany_single _ (opened_dp (s.view f) (loadWrite1 r x f.dp)) (opened_k _ _) rfl (.inl rfl)
  rw [opened_rxIn] at hevs
  exact hp.exec_write_returned hr rfl rfl hevs (.inl rfl) rfl

/-- Settles O11: WRITEN's frame is its address byte and the values of its slots, each read just before it is sent. -/
theorem writenSendsAddressThenSlots : Obligations.WritenSendsAddressThenSlots := by
  intro r n b vals s f hr hmax hlen hn hvals hlent
  subst hn
  have ⟨_, hcs, _⟩ := hr
  have hp : s.Passes f (.writen r vals.length b) :=
    ⟨hcs, hmax, hlen, fun i hi => by simp [hvals i hi, hi], hlent⟩
  have hload : loadOf (.writen r vals.length b) (s.view f) = loadWriten r vals.length b vals f.dp := by
    simp only [loadOf, view_bufs, view_inst, slotVals_eq _ _ vals rfl hvals]
  have hevs := xferMany_writen_frame _ (opened_dp (s.view f) (loadWriten r vals.length b vals f.dp)) (opened_k _ _)
    rfl rfl rfl
  rw [opened_rxIn] at hevs
  exact hp.exec_write_returned hr hload rfl hevs (.inr rfl) rfl

/-- Settles O12: the frame of WRITEN with no slot is its address byte alone. -/
theorem writenOfZeroSendsAddressOnly : Obligations.WritenOfZeroSendsAddressOnly := fun r b s f hr =>
  writenSendsAddressThenSlots r 0 b [] s f hr (Nat.zero_le _) (Nat.zero_le _) rfl nofun (.inl rfl)

/-! ### The frame of memory -/

/-- A transfer of a READN, whose IDX follows its K, stores to no slot past the frame's last store. -/
theorem xferStep_readn_slot (c j : Nat) (ho : v.inst.dp.opr = .readn) (hidx : v.inst.dp.idx = v.inst.k - 1)
    (hout : c ≠ v.inst.dp.buf ∨ v.inst.dp.plan.length ≤ j + 1) :
    (bufAt v.xferStep.bufs c).read j = (bufAt v.bufs c).read j ∧ v.xferStep.inst.dp.idx = v.xferStep.inst.k - 1 := by
  cases htx : v.inst.dp.plan[v.inst.k]? with
  | none => simp only [View.xferStep, htx, goto_bufs, goto_inst_dp, goto_inst_k, hidx, and_self]
  | some tx =>
    obtain ⟨hlt, _⟩ := List.getElem?_eq_some_iff.1 htx
    by_cases hk : v.inst.k = 0
    · obtain ⟨_, hbufs, hdp⟩ := xferStep_plain v tx htx (fun h => h.2 hk) (fun h => h.2 hk)
      rw [hbufs, hdp, xferStep_k v hlt]
      exact ⟨rfl, by simp only [hidx, hk]⟩
    · obtain ⟨_, hbufs, hdp⟩ := xferStep_store v tx htx ho hk
      rw [hbufs, hdp, xferStep_k v hlt]
      exact ⟨bufAt_write_other _ _ _ _ _ _ (by omega), by simp only [hidx]; omega⟩

theorem xferMany_readn_slot (m c j : Nat) (ho : v.inst.dp.opr = .readn) (hidx : v.inst.dp.idx = v.inst.k - 1)
    (hout : c ≠ v.inst.dp.buf ∨ v.inst.dp.plan.length ≤ j + 1) :
    (bufAt (v.xferMany m).bufs c).read j = (bufAt v.bufs c).read j := by
  induction m generalizing v with
  | zero => rfl
  | succ m ih =>
    have hk := xferStep_kept v
    obtain ⟨hslot, hidx'⟩ := xferStep_readn_slot v c j ho hidx hout
    rw [xferMany_succ, ih _ (hk.opr.trans ho) hidx' (by rwa [hk.buf, hk.plan]), hslot]

/-- The bracket itself stores nothing, and a transfer held at its Begin has not begun. -/
theorem finish_accept_bufs (d : Datapath) :
    (v.accept d).finish.bufs = v.bufs ∨
      (v.accept d).finish.bufs = ((v.opened d).xferMany d.plan.length).bufs := by
  by_cases ho : v.owner = none
  · exact .inr (by rw [finish_accept v d ho]; rfl)
  · exact .inl (by rw [finish_accept_held v d ho]; rfl)

theorem finish_accept_bufs_of_ne_readn {d : Datapath} (ho : d.opr ≠ .readn) : (v.accept d).finish.bufs = v.bufs := by
  rcases finish_accept_bufs v d with e | e
  · exact e
  · rw [e, xferMany_bufs _ _ (by rwa [opened_dp]), opened_bufs]

/-- IDX follows K from the opening of the bracket on, and the frame of a READN is one byte longer than its slots. -/
theorem finish_accept_readn_slot {d : Datapath} (c j : Nat) (ho : d.opr = .readn) (hidx : d.idx = 0)
    (hout : c ≠ d.buf ∨ d.plan.length ≤ j + 1) :
    (bufAt (v.accept d).finish.bufs c).read j = (bufAt v.bufs c).read j := by
  rcases finish_accept_bufs v d with e | e
  · rw [e]
  · rw [e, xferMany_readn_slot (v.opened d) _ c j (by rwa [opened_dp]) (by rwa [opened_dp, opened_k])
      (by rwa [opened_dp]), opened_bufs]

theorem runInit_bufs (n : Nat) : (v.runInit n).bufs = v.bufs := by
  induction n generalizing v with
  | zero => rfl
  | succ n ih =>
    rw [View.runInit, ih]
    rcases advanceInit_moved v with ⟨_, e⟩ | ⟨st, _, hm⟩
    · rw [e]
    · exact hm.kept.bufs

/-- Everything exec can do for an operation other than READN leaves the buffers. -/
theorem Did.finish_bufs (h : Did View.finish s f i w) (hop : i.isOperation = true)
    (hi : ∀ r n b ra, i ≠ .readn r n b ra) : w.bufs = s.bufs := by
  cases h with
  | held | raised => rfl
  | accepted _ d _ _ _ _ _ _ hread =>
    refine finish_accept_bufs_of_ne_readn (s.view f) fun ho => ?_
    obtain ⟨r, n, b, ra, e, _⟩ := hread ho
    exact hi r n b ra e
  | readNone => exact absurd rfl (hi _ _ _ _)
  | initialised => exact runInit_bufs (s.view f).beginInit _
  | sent _ _ _ _ hn => rw [hop] at hn; cases hn

/-- Everything exec can do for a READN leaves the other buffers, and the slots of its own past its count. -/
theorem Did.finish_readn_slot {r : RegAddr} {n b : Nat} {ra : Align} (h : Did View.finish s f (.readn r n b ra) w)
    (c j : Nat) (hout : c ≠ b ∨ n ≤ j) : (bufAt w.bufs c).read j = (bufAt s.bufs c).read j := by
  cases h with
  | held | raised | readNone => rfl
  | accepted _ d _ _ _ _ _ _ hread =>
    by_cases ho : d.opr = .readn
    · obtain ⟨_, _, _, _, ⟨⟩, rfl, hn, _⟩ := hread ho
      refine finish_accept_readn_slot (s.view f) c j rfl rfl ?_
      simpa [loadReadn, planOf, planTx, show n ≠ 0 by omega] using hout
    · rw [finish_accept_bufs_of_ne_readn (s.view f) ho, view_bufs]
  | sent _ _ _ _ hn => cases hn

/-- Settles O48: an operation stores only through the transfers of a READN. -/
theorem bufferFrame : Obligations.BufferFrame := by
  intro i s t h
  obtain ⟨f, w, _, rfl, hd⟩ := exec_next h
  refine ⟨fun hi => ?_, ?_⟩
  · rcases hi with ⟨r, x, rfl⟩ | ⟨r, n, b, rfl⟩ | ⟨r, rfl⟩ | rfl <;> exact hd.finish_bufs rfl nofun
  · rintro r n b ra rfl c j hout
    exact hd.finish_readn_slot c j hout

end Sys2Proof.Machine
end

section
/-! PROOF. The statements on the register reads (41_register_read.md): READ1 and READN from their command to their return,
and the receive aligner. -/

namespace Sys2Proof.Machine

variable {s : State} {f : Framer} (v : View) (r : RegAddr)

/-! ### The receive aligner (R125) -/

/-- Settles O16: under the mask a bit is the received one, outside it the old one. -/
theorem alignerMergesBitwise : Obligations.AlignerMergesBitwise := by
  intro ra old rx i hi
  simp only [rxMerge, BitVec.getLsbD_or, BitVec.getLsbD_and, BitVec.getLsbD_not, getLsbD_rxMask ra hi]
  by_cases h : ra.toNat ≤ i
  · simp [h]
  · simp [h, hi]

/-- A plain store does not look at slot 0's value at entry. -/
theorem readIteration_align_zero (n : Nat) (old old' : Byte) (rx : Nat → Byte) :
    readIteration r n 0 old rx = readIteration r n 0 old' rx := by
  funext i
  simp [readIteration, readValue]

theorem readValue_align_zero (old old' : Byte) (rx : Nat → Byte) (i : Nat) :
    readValue 0 old rx i = readValue 0 old' rx i := by
  simp [readValue]

/-! ### The length of a buffer -/

/-- A transfer changes no buffer's length (20_memory.md R50). -/
theorem xferStep_bufs_len (c : Nat) : (bufAt v.xferStep.bufs c).len = (bufAt v.bufs c).len := by
  by_cases ho : v.inst.dp.opr = .readn
  · cases htx : v.inst.dp.plan[v.inst.k]? with
    | none => simp only [View.xferStep, htx, goto_bufs]
    | some tx =>
      obtain ⟨_, hbufs, _⟩ := xferStep_read v htx (.inr ho)
      rw [hbufs]
      split
      · exact bufAt_write_len _ _ _ _ _
      · rfl
  · rw [xferStep_bufs v ho]

theorem xferMany_bufs_len (m c : Nat) : (bufAt (v.xferMany m).bufs c).len = (bufAt v.bufs c).len := by
  induction m generalizing v with
  | zero => rfl
  | succ m ih => rw [xferMany_succ, ih, xferStep_bufs_len]

/-! ### From the command to the return -/

/-- Settles O13: of the frame's two bytes the second is the result, and a READ1 stores to no buffer. -/
theorem read1ReturnsSecondByte : Obligations.Read1ReturnsSecondByte := by
  intro r s f hr
  have ⟨_, hcs, _⟩ := hr
  have hp : s.Passes f (.read1 r) := hcs
  obtain ⟨hevs, hres⟩ := xferMany_single _ (opened_dp (s.view f) (loadRead1 r f.dp)) (opened_k _ _) rfl (.inr rfl)
  rw [opened_rxIn] at hevs hres
  have hbufs := xferMany_bufs ((s.view f).opened (loadRead1 r f.dp)) 2 (by rw [opened_dp]; exact nofun)
  have hret := hp.exec_returned (d := loadRead1 r f.dp) (m := 2) hr rfl rfl hevs
  rw [hres, hbufs] at hret
  exact hret

/-- READN from its command to its return, with slot 0's value at entry where it is merged (R123-R130). -/
theorem exec_readn_returned {n b : Nat} {ra : Align} {old : Byte} (hr : s.Ready f) (hp : s.Passes f (.readn r n b ra))
    (hold : ((bufAt s.bufs b).read 0).getD f.dp.old = old) :
    ∃ t f', exec (.readn r n b ra) s = .next t ∧ s.Became f' t ∧ f.SamePins f' ∧
      f.Returned (bracket f.cfg.bus (.xfer (addrRead r) (s.rx f 0) ::
        (List.range n).flatMap (readIteration r n ra old (s.rx f)))) .none (n + 1) f' ∧
      t.busOwner = none ∧
      (∀ i < n, (bufAt t.bufs b).read i = some (readValue ra old (s.rx f) i)) ∧
      (∀ c, (bufAt t.bufs c).len = (bufAt s.bufs c).len) := by
  subst hold
  have ⟨_, hn, _, hl, _⟩ := hp
  have hplan : (loadReadn r n b ra ((bufAt s.bufs b).read 0) f.dp).plan =
      List.replicate n (addrRead r) ++ [dummyByte] := by
    simp [loadReadn, planOf, planTx, show n ≠ 0 by omega]
  obtain ⟨hevs, hslots⟩ := xferMany_readn_frame _ r
    (opened_dp (s.view f) (loadReadn r n b ra ((bufAt s.bufs b).read 0) f.dp)) (opened_k _ _) hn hplan rfl rfl rfl hl
  rw [opened_rxIn] at hevs hslots
  have hm : (loadReadn r n b ra ((bufAt s.bufs b).read 0) f.dp).plan.length = n + 1 := by simp [hplan]
  obtain ⟨t, f', ht, hb, hpins, hret, howner, hbufs⟩ := hp.exec_returned hr rfl hm hevs
  rw [xferMany_res _ _ (by rw [opened_dp]; exact nofun), opened_dp] at hret
  refine ⟨t, f', ht, hb, hpins, hret, howner, by rw [hbufs]; exact hslots, fun c => ?_⟩
  rw [hbufs, xferMany_bufs_len, opened_bufs, view_bufs]

/-- Settles O14: a READN reads slot 0 at entry only to merge it, and stores to no slot but its own. -/
theorem readnStoresWithLag : Obligations.ReadnStoresWithLag := by
  intro r n b ra old s f hr hn hmax hlen hslot hlent
  have ⟨_, hcs, _⟩ := hr
  have hp : s.Passes f (.readn r n b ra) :=
    ⟨hcs, hn, hmax, hlen, hslot.imp_right fun h => by rw [h]; exact nofun, hlent⟩
  obtain ⟨t, f', ht, hb, hpins, hret, howner, hread, hlens⟩ := exec_readn_returned r hr hp rfl
  obtain ⟨_, hframe⟩ := bufferFrame _ _ _ ht
  have hother := hframe r n b ra rfl
  rcases hslot with rfl | h0
  · rw [readIteration_align_zero r n _ old] at hret
    refine ⟨t, f', ht, hb, hpins, hret, howner, fun i hi => ?_, hother, hlens⟩
    rw [hread i hi, readValue_align_zero _ old]
  · rw [h0] at hret hread
    exact ⟨t, f', ht, hb, hpins, hret, howner, hread, hother, hlens⟩

/-- Settles O15: a READN of count 0 goes straight to DONE, past its checks and its bracket. -/
theorem readnOfZeroDoesNothing : Obligations.ReadnOfZeroDoesNothing := by
  intro r b ra s f hf
  obtain ⟨hat, hn, hb⟩ := hf
  have hexec : exec (.readn r 0 b ra) s = .next (s.put
      (((s.view f).setDp { f.dp with opr := .readn, reg := r, cnt := 0, ra := ra, res := .none }).goto .done).ret) := by
    rw [exec_eq_entryOf (i := .readn r 0 b ra) rfl (decide_eq_true s.countMax.zero_le)]
    refine onSelf_next_of hat ?_
    rw [guarded_free _ _ _ hn hb]
    rfl
  exact ⟨_, _, hexec, put_became _, ⟨rfl, rfl, rfl⟩,
    ⟨(List.append_nil _).symm, rfl, rfl, rfl, rfl, rfl, rfl, hn, rfl⟩, rfl, rfl⟩

end Sys2Proof.Machine
end

section
/-! PROOF. The statements on INIT (42_init_sequencer.md): its pin sequence event by event, and from its command to its
return. -/

namespace Sys2Proof.Machine

variable {s : State} {f : Framer} (v : View) {w : View} {p : PinId}

/-! ### One pin at a time (10_state.md R23) -/

@[simp] theorem modPin_cs (f : Framer) (p : PinId) (g : Pin → Pin) :
    (f.modPin p g).cs = if p = f.cfg.csPin then g f.cs else f.cs := by
  unfold Framer.modPin
  split
  · rfl
  · split <;> rfl

@[simp] theorem modPin_rst (f : Framer) (p : PinId) (g : Pin → Pin) :
    (f.modPin p g).rst = if p ≠ f.cfg.csPin ∧ f.cfg.rstPin = some p then g f.rst else f.rst := by
  unfold Framer.modPin
  split
  · simp [*]
  · split <;> simp [*]

/-- Changing a pin changes no other; a pin that is not configured has no storage. -/
theorem modPin_setsPin (f : Framer) (p : PinId) (g : Pin → Pin) : f.SetsPin (f.modPin p g) p g := by
  by_cases hcs : p = f.cfg.csPin
  · exact ⟨by simp [Framer.pin, hcs], fun q hq => by simp [Framer.pin, hcs, hcs ▸ hq]⟩
  by_cases hrst : f.cfg.rstPin = some p
  · exact ⟨by simp [Framer.pin, hcs, hrst], fun q hq => by simp [Framer.pin, hcs, hrst, hq.symm]⟩
  · have hnone : f.modPin p g = f := by rw [Framer.modPin, if_neg hcs, if_neg hrst]
    rw [hnone]
    exact ⟨by simp [Framer.pin, hcs, hrst], fun _ _ => rfl⟩

/-- A sample changes no pin. -/
theorem pinRead_setsPin (p : PinId) : v.inst.SetsPin (v.pinRead p).2.inst p id := by
  have h : ∀ q, (v.pinRead p).2.inst.pin q = v.inst.pin q := fun q => by simp [View.pinRead, Framer.pin]
  exact ⟨by rw [h, Option.map_id_fun, id], fun q _ => h q⟩

/-! ### The parts of the pseudocode (R150) -/

theorem initCs_trace : v.initCs.inst.trace =
    v.inst.trace ++ [.pinMode v.inst.cfg.csPin .output, .pinWrite v.inst.cfg.csPin .high] := by
  simp [View.initCs, View.pinMode, View.pinWrite]

theorem initCs_cs : v.initCs.inst.cs = Pin.deselected := by
  simp [View.initCs, View.pinMode, View.pinWrite, View.setDir, View.setLvl, Pin.deselected, Dir.toPin, Level.toPin]

theorem initCs_rst : v.initCs.inst.rst = v.inst.rst := by
  simp [View.initCs, View.pinMode, View.pinWrite, View.setDir, View.setLvl]

/-- Configuring chip-select draws no level. -/
theorem initCs_kept : v.initCs.inst.cfg = v.inst.cfg ∧ v.initCs.inst.lvlIn = v.inst.lvlIn ∧ v.initCs.free = v.free := by
  simp [View.initCs, View.pinMode, View.pinWrite]

theorem sampleRst_fst (p : PinId) : (v.sampleRst p).1 = nextLevel v.inst.lvlIn v.free := by
  simp [View.sampleRst, View.pinRead, View.pinMode, drawLevel_fst]

theorem sampleRst_trace (p : PinId) : (v.sampleRst p).2.inst.trace =
    v.inst.trace ++ [.pinMode p .input, .pinRead p (nextLevel v.inst.lvlIn v.free)] := by
  simp [View.sampleRst, View.pinRead, View.pinMode, drawLevel_fst]

/-- Sampling makes the reset pin an input, in the chip-select's storage where the two are one pin (log 12). -/
theorem sampleRst_pins (h : v.inst.cfg.rstPin = some p) :
    (v.sampleRst p).2.inst.cs = (if p = v.inst.cfg.csPin then { v.inst.cs with dir := .input } else v.inst.cs) ∧
    (v.sampleRst p).2.inst.rst = if p = v.inst.cfg.csPin then v.inst.rst else { v.inst.rst with dir := .input } := by
  simp [View.sampleRst, View.pinRead, View.pinMode, View.setDir, h, Dir.toPin]

theorem sampleRst_kept (p : PinId) : (v.sampleRst p).2.inst.cfg = v.inst.cfg ∧
    (v.sampleRst p).2.inst.lvlIn = v.inst.lvlIn.tail := by
  simp [View.sampleRst, View.pinRead, View.pinMode, drawLevel_lvlIn]

theorem exitPowerDown_trace (p : PinId) : (v.exitPowerDown p).inst.trace =
    v.inst.trace ++ [.pinMode p .output, .pinWrite p .high, .delay 50] := by
  simp [View.exitPowerDown, View.pinMode, View.pinWrite, View.delay, Config.resetSettleMs]

/-- The exit from hard power-down leaves the reset pin an output driven HIGH (R150), wherever it is stored. -/
theorem exitPowerDown_pins (h : v.inst.cfg.rstPin = some p) :
    (v.exitPowerDown p).inst.cs = (if p = v.inst.cfg.csPin then ⟨.output, .high⟩ else v.inst.cs) ∧
    (v.exitPowerDown p).inst.rst = if p = v.inst.cfg.csPin then v.inst.rst else ⟨.output, .high⟩ := by
  by_cases hp : p = v.inst.cfg.csPin <;>
    simp [View.exitPowerDown, View.pinMode, View.pinWrite, View.delay, View.setDir, View.setLvl, h, hp, Dir.toPin,
      Level.toPin]

theorem exitPowerDown_lvlIn (p : PinId) : (v.exitPowerDown p).inst.lvlIn = v.inst.lvlIn := by
  simp [View.exitPowerDown, View.pinMode, View.pinWrite, View.delay]

theorem initRst_none (h : v.inst.cfg.rstPin = none) : v.initRst = (false, v) := by
  simp only [View.initRst, h]

theorem initRst_high (h : v.inst.cfg.rstPin = some p) (hl : nextLevel v.inst.lvlIn v.free = .high) :
    v.initRst = (false, (v.sampleRst p).2) := by
  simp only [View.initRst, h, sampleRst_fst, hl]

theorem initRst_low (h : v.inst.cfg.rstPin = some p) (hl : nextLevel v.inst.lvlIn v.free = .low) :
    v.initRst = (true, (v.sampleRst p).2.exitPowerDown p) := by
  simp only [View.initRst, h, sampleRst_fst, hl]

/-- Chip-select configured and the reset pin sampled HIGH (R152). -/
theorem initCs_initRst_high (h : v.inst.cfg.rstPin = some p) (hl : nextLevel v.inst.lvlIn v.free = .high) :
    ∃ w, v.initCs.initRst = (false, w) ∧
      w.inst.trace = v.inst.trace ++ [.pinMode v.inst.cfg.csPin .output, .pinWrite v.inst.cfg.csPin .high,
        .pinMode p .input, .pinRead p .high] ∧
      w.inst.cs = (if p = v.inst.cfg.csPin then ⟨.input, .high⟩ else Pin.deselected) ∧
      w.inst.rst = (if p = v.inst.cfg.csPin then v.inst.rst else ⟨.input, v.inst.rst.lvl⟩) ∧
      w.inst.lvlIn = v.inst.lvlIn.tail := by
  obtain ⟨hcfg, hlvl, hfree⟩ := initCs_kept v
  have hr : v.initCs.inst.cfg.rstPin = some p := by rw [hcfg, h]
  obtain ⟨hcs, hrst⟩ := sampleRst_pins v.initCs hr
  rw [hcfg, initCs_cs] at hcs
  rw [hcfg, initCs_rst] at hrst
  refine ⟨_, initRst_high _ hr (by rw [hlvl, hfree, hl]), ?_, hcs, hrst, ?_⟩
  · simp [sampleRst_trace, initCs_trace, hlvl, hfree, hl]
  · simp [sampleRst_kept, hlvl]

/-- Chip-select configured, the reset pin sampled LOW and the chip taken out of hard power-down (R152). -/
theorem initCs_initRst_low (h : v.inst.cfg.rstPin = some p) (hl : nextLevel v.inst.lvlIn v.free = .low) :
    ∃ w, v.initCs.initRst = (true, w) ∧
      w.inst.trace = v.inst.trace ++ [.pinMode v.inst.cfg.csPin .output, .pinWrite v.inst.cfg.csPin .high,
        .pinMode p .input, .pinRead p .low, .pinMode p .output, .pinWrite p .high, .delay 50] ∧
      w.inst.cs = Pin.deselected ∧
      w.inst.rst = (if p = v.inst.cfg.csPin then v.inst.rst else ⟨.output, .high⟩) ∧
      w.inst.lvlIn = v.inst.lvlIn.tail := by
  obtain ⟨hcfg, hlvl, hfree⟩ := initCs_kept v
  have hr : v.initCs.inst.cfg.rstPin = some p := by rw [hcfg, h]
  obtain ⟨hscfg, hslvl⟩ := sampleRst_kept v.initCs p
  obtain ⟨hcs, hrst⟩ := sampleRst_pins v.initCs hr
  obtain ⟨hcs', hrst'⟩ := exitPowerDown_pins (v.initCs.sampleRst p).2 (hscfg ▸ hr)
  refine ⟨_, initRst_low _ hr (by rw [hlvl, hfree, hl]), ?_, ?_, ?_, ?_⟩
  · simp [exitPowerDown_trace, sampleRst_trace, initCs_trace, hlvl, hfree, hl]
  · rw [hcs', hcs, hscfg, hcfg, initCs_cs]
    split <;> rfl
  · rw [hrst', hrst, hscfg, hcfg, initCs_rst]
    split <;> rfl
  · rw [exitPowerDown_lvlIn, hslvl, hlvl]

/-! ### What all of INIT keeps -/

/-- What every event of INIT keeps, any number of them keep. -/
theorem runInit_keeps (P : View → Prop) (hP : ∀ st u w, InitMoved u st w → P u → P w) (n : Nat) (h : P v) :
    P (v.runInit n) := by
  induction n generalizing v with
  | zero => exact h
  | succ n ih =>
    refine ih _ ?_
    rcases advanceInit_moved v with ⟨_, e⟩ | ⟨st, _, hm⟩
    · rwa [e]
    · exact hP st v _ hm h

theorem InitKept.refl : InitKept v v := by constructor <;> rfl

theorem InitKept.trans {v u w : View} (g : InitKept v u) (h : InitKept u w) : InitKept v w :=
  ⟨h.me.trans g.me, h.owner.trans g.owner, h.bufs.trans g.bufs, h.countMax.trans g.countMax, h.lent.trans g.lent,
    h.cfg.trans g.cfg, h.fault.trans g.fault, h.results.trans g.results, h.inbox.trans g.inbox, h.rxIn.trans g.rxIn,
    h.k.trans g.k, h.opr.trans g.opr⟩

theorem runInit_kept (n : Nat) : InitKept v (v.runInit n) :=
  runInit_keeps v (InitKept v) (fun _ _ _ hm hk => hk.trans hm.kept) n (.refl v)

/-- The pseudocode read straight down keeps what its events keep. -/
theorem initSeq_kept : InitKept v v.initSeq := by
  have hstart : InitKept v (v.gotoInit .csMode) := by constructor <;> rfl
  have hrun := runInit_kept (v.gotoInit .csMode) 7
  rw [runInit_seq] at hrun
  exact hstart.trans hrun

/-- An event INIT may make: not on the bus (R154), and no pin driven LOW (R155). -/
def Event.quiet (e : Event) : Prop := e.onBus = false ∧ ∀ p, e ≠ .pinWrite p .low

theorem runInit_trace (n : Nat) :
    ∃ evs, (v.runInit n).inst.trace = v.inst.trace ++ evs ∧ ∀ e ∈ evs, e.quiet := by
  refine runInit_keeps v (fun w => ∃ evs, w.inst.trace = v.inst.trace ++ evs ∧ ∀ e ∈ evs, e.quiet) ?_ n
    ⟨[], (List.append_nil _).symm, nofun⟩
  rintro st u w hm ⟨es, htrace, hes⟩
  obtain ⟨es', htrace', hes'⟩ := hm.trace
  exact ⟨es ++ es', by rw [htrace', htrace, List.append_assoc], List.forall_mem_append.2 ⟨hes, hes'⟩⟩

/-- The two things exec of INIT can do: hold the command, or run every event to the return. -/
theorem Did.init_cases (h : Did View.finish s f .init w) :
    w = (s.view f).hold .init ∨ w = ((s.view f).beginInit.runInit InitStep.csMode.left).ret := by
  cases h with
  | held => exact .inl rfl
  | initialised => exact .inr rfl
  | raised _ _ _ _ hi | accepted _ _ _ _ _ hi | sent _ _ _ _ hi => cases hi

/-- Settles O49: INIT keeps what each of its events keeps; a held INIT has made none. -/
theorem initFrame : Obligations.InitFrame := by
  intro s t f hf h
  obtain ⟨g, w, hg, rfl, hd⟩ := exec_next h
  cases hf.symm.trans hg
  refine ⟨w.inst, put_became w, ?_⟩
  rcases hd.init_cases with rfl | rfl
  · exact ⟨rfl, rfl, rfl, rfl, rfl⟩
  · have hk := runInit_kept (s.view f).beginInit InitStep.csMode.left
    exact ⟨hk.cfg, hk.fault, hk.rxIn, hk.owner, hk.bufs⟩

/-- Settles O21: each event of INIT is off the bus and drives no pin LOW, so all of them are. -/
theorem initNeverDrivesLow : Obligations.InitNeverDrivesLow := by
  intro s t f hf h
  obtain ⟨g, w, hg, rfl, hd⟩ := exec_next h
  cases hf.symm.trans hg
  rcases hd.init_cases with rfl | rfl
  · exact ⟨_, [], put_became _, (List.append_nil _).symm, nofun⟩
  · obtain ⟨evs, htrace, hevs⟩ := runInit_trace (s.view f).beginInit InitStep.csMode.left
    exact ⟨_, evs, put_became _, htrace, hevs⟩

/-! ### From the command to the return -/

/-- A free framer's INIT returns, with the result of the reset branch w and what that branch left (R150-R153). -/
theorem exec_init_returned {b : Bool} {evs : List Event} (hf : s.Free f)
    (hw : (s.view f).beginInit.initCs.initRst = (b, w)) (hevs : w.inst.trace = f.trace ++ evs) :
    ∃ t f', exec .init s = .next t ∧ s.Became f' t ∧ f.Returned evs (.bool b) 0 f' ∧ f'.cs = w.inst.cs ∧
      f'.rst = w.inst.rst ∧ f'.lvlIn = w.inst.lvlIn ∧ t.busOwner = s.busOwner ∧ t.bufs = s.bufs := by
  obtain ⟨hat, hn, hb⟩ := hf
  have hexec : exec .init s = .next (s.put (w.initDone b).ret) := by
    rw [exec_eq_entryOf (i := .init) rfl rfl]
    refine onSelf_next_of hat ?_
    rw [guarded_free _ _ _ hn hb]
    show Host.Outcome.next (s.view f).beginInit.finish = _
    rw [finish_beginInit, View.initSeq, hw]
  have hk := initSeq_kept (s.view f).beginInit
  rw [View.initSeq, hw] at hk
  have hresults : (w.initDone b).ret.inst.results = f.results ++ [.bool b] := by
    rw [ret_inst_results, hk.results]
    rfl
  exact ⟨_, _, hexec, put_became _,
    ⟨hevs, hresults, hk.rxIn, rfl, rfl, rfl, hk.cfg, hk.fault.trans hn, hk.inbox⟩, rfl, rfl, rfl, hk.owner, hk.bufs⟩

/-- Settles O17: with no reset pin the branch makes no event. -/
theorem initWithoutResetPin : Obligations.InitWithoutResetPin := by
  intro s f hf hr
  obtain ⟨hcfg, hlvl, _⟩ := initCs_kept (s.view f).beginInit
  have hret := exec_init_returned hf (initRst_none _ (by rw [hcfg]; exact hr)) (initCs_trace _)
  rw [initCs_cs, initCs_rst, hlvl] at hret
  exact hret

/-- Settles O18: the reset branch is the sample alone. -/
theorem initResetPinHigh : Obligations.InitResetPinHigh := by
  intro p s f hf hr hl
  obtain ⟨w, hw, htrace, hcs, hrst, hlvl⟩ := initCs_initRst_high (s.view f).beginInit hr hl
  obtain ⟨t, f', ht, hb, hret, hcs', hrst', hlvl', hkept⟩ := exec_init_returned hf hw htrace
  refine ⟨t, f', ht, hb, hret, fun hp => ?_, fun hp => ?_, hlvl'.trans hlvl, hkept⟩
  · exact ⟨by rw [hcs', hcs]; exact if_neg hp, by rw [hrst', hrst]; exact if_neg hp⟩
  · exact ⟨by rw [hcs', hcs]; exact if_pos hp, by rw [hrst', hrst]; exact if_pos hp⟩

/-- Settles O19: the reset branch goes on from the sample to the exit from hard power-down. -/
theorem initResetPinLow : Obligations.InitResetPinLow := by
  intro p s f hf hr hl
  obtain ⟨w, hw, htrace, hcs, hrst, hlvl⟩ := initCs_initRst_low (s.view f).beginInit hr hl
  obtain ⟨t, f', ht, hb, hret, hcs', hrst', hlvl', hkept⟩ := exec_init_returned hf hw htrace
  refine ⟨t, f', ht, hb, hret, hcs'.trans hcs, fun hp => ?_, fun hp => ?_, hlvl'.trans hlvl, hkept⟩
  · rw [hrst', hrst]; exact if_neg hp
  · rw [hrst', hrst]; exact if_pos hp

/-- Settles O20: of the three ways INIT can go, only the sampled LOW ends in the exit from hard power-down. -/
theorem initTrueIffDroveResetHigh : Obligations.InitTrueIffDroveResetHigh := by
  intro s f hf
  cases hr : f.cfg.rstPin with
  | none =>
    obtain ⟨t, f', ht, hb, ⟨htrace, hres, _⟩, _⟩ := initWithoutResetPin s f hf hr
    exact ⟨t, f', _, _, ht, hb, htrace, hres, by simp, by simp⟩
  | some p =>
    cases hl : nextLevel f.lvlIn s.free with
    | high =>
      obtain ⟨t, f', ht, hb, ⟨htrace, hres, _⟩, _⟩ := initResetPinHigh p s f hf hr hl
      exact ⟨t, f', _, _, ht, hb, htrace, hres, by simp [List.suffix_cons_iff], by simp⟩
    | low =>
      obtain ⟨t, f', ht, hb, ⟨htrace, hres, _⟩, _⟩ := initResetPinLow p s f hf hr hl
      exact ⟨t, f', _, _, ht, hb, htrace, hres, by simp [List.suffix_cons_iff], by simp⟩

/-! ### One event at a time -/

theorem step_framer_event {k : Nat} {ts : List Turn} (h : s.turns = .framer k .event :: ts) :
    step s = ({ s with turns := ts, cur := k } : State).turnEvent := by
  simp only [step, State.nextTurn, h, State.takeTurn]

/-- A one-event turn of a framer inside INIT, at the event st. -/
theorem turnEvent_init {st : InitStep} (hf : s.insts[s.cur]? = some f) (hn : f.fault = none) (hp : f.phase = .idle)
    (hst : f.initAt = some st) : s.turnEvent = .next (s.put ((s.view f).initStep st)) := by
  have hb : f.busy = true := by simp [Framer.busy, hp, hst]
  have hadv : (s.view f).advance = (s.view f).initStep st := by simp [View.advance, View.advanceInit, hp, hst]
  simp [State.turnEvent, hf, hb, hp, carryOn_unfaulted View.advance hf hn, hadv]

theorem pinMode_initGoes (p : PinId) (d : Dir) (st : InitStep) (hp : v.inst.phase = .idle) :
    v.inst.InitGoes ((v.pinMode p d).gotoInit st).inst (.pinMode p d) st :=
  ⟨by simp [View.pinMode], by simp [View.pinMode, hp], rfl⟩

theorem pinWrite_initGoes (p : PinId) (l : Level) (st : InitStep) (hp : v.inst.phase = .idle) :
    v.inst.InitGoes ((v.pinWrite p l).gotoInit st).inst (.pinWrite p l) st :=
  ⟨by simp [View.pinWrite], by simp [View.pinWrite, hp], rfl⟩

theorem pinWrite_initEnds (p : PinId) (l : Level) (b : Bool) :
    v.inst.InitEnds ((v.pinWrite p l).initDone b).inst (.pinWrite p l) b :=
  ⟨by simp [View.pinWrite], rfl, rfl, rfl⟩

theorem pinRead_initGoes (p : PinId) (st : InitStep) (hp : v.inst.phase = .idle) :
    v.inst.InitGoes ((v.pinRead p).2.gotoInit st).inst (.pinRead p v.drawLevel.1) st :=
  ⟨by simp [View.pinRead], by simp [View.pinRead, hp], rfl⟩

theorem pinRead_initEnds (p : PinId) (b : Bool) :
    v.inst.InitEnds ((v.pinRead p).2.initDone b).inst (.pinRead p v.drawLevel.1) b :=
  ⟨by simp [View.pinRead], rfl, rfl, rfl⟩

/-- Settles O22: what is kept is the same for every event; the rest is said by each way an event can go (`InitMoved`). -/
theorem initGoesEventByEvent : Obligations.InitGoesEventByEvent := by
  intro s f k ts st hts hf hn hp hst hon
  rw [step_framer_event hts, turnEvent_init (s := { s with turns := ts, cur := k }) hf hn hp hst]
  have hm := initStep_moved (State.view { s with turns := ts, cur := k } f) st
  generalize hv : State.view { s with turns := ts, cur := k } f = v at hm
  obtain rfl : v.inst = f := by rw [← hv]; rfl
  generalize v.initStep st = w at hm
  have hk := hm.kept
  have howner : w.owner = s.busOwner := by rw [hk.owner, ← hv]; rfl
  have hbufs : w.bufs = s.bufs := by rw [hk.bufs, ← hv]; rfl
  have hlevel : v.drawLevel.1 = nextLevel v.inst.lvlIn s.free := by rw [drawLevel_fst, ← hv]; rfl
  refine ⟨_, w.inst, rfl, rfl, howner, hbufs, rfl, hk.results, hk.cfg, hk.fault.trans hn, hk.inbox, hk.rxIn, ?_⟩
  cases hm with
  | csMode => exact ⟨pinMode_initGoes v _ _ _ hp, modPin_setsPin _ _ _, setDir_inst_lvlIn v _ _⟩
  | csHighOnly hr =>
    exact ⟨modPin_setsPin _ _ _, setLvl_inst_lvlIn v _ _, fun _ => pinWrite_initEnds v _ _ _, fun h => absurd hr h⟩
  | csHigh p hr =>
    exact ⟨modPin_setsPin _ _ _, setLvl_inst_lvlIn v _ _, fun h => absurd (hr.symm.trans h) nofun,
      fun _ => pinWrite_initGoes v _ _ _ hp⟩
  | absent _ hs hr =>
    rcases hon with h | h
    · rw [hs] at h; cases h
    · exact absurd hr h
  | rstMode p hr => exact ⟨p, hr, pinMode_initGoes v _ _ _ hp, modPin_setsPin _ _ _, setDir_inst_lvlIn v _ _⟩
  | sampledLow p hr hl =>
    refine ⟨p, hr, pinRead_setsPin v p, drawLevel_lvlIn v, fun _ => ?_, fun h => ?_⟩
    · exact hl ▸ pinRead_initGoes v p _ hp
    · rw [← hlevel, hl] at h; cases h
  | sampledHigh p hr hl =>
    refine ⟨p, hr, pinRead_setsPin v p, drawLevel_lvlIn v, fun h => ?_, fun _ => ?_⟩
    · rw [← hlevel, hl] at h; cases h
    · exact hl ▸ pinRead_initEnds v p _
  | rstOut p hr => exact ⟨p, hr, pinMode_initGoes v _ _ _ hp, modPin_setsPin _ _ _, setDir_inst_lvlIn v _ _⟩
  | rstHigh p hr => exact ⟨p, hr, pinWrite_initGoes v _ _ _ hp, modPin_setsPin _ _ _, setLvl_inst_lvlIn v _ _⟩
  | settle => exact ⟨⟨rfl, rfl, rfl, rfl⟩, rfl, rfl, rfl⟩

end Sys2Proof.Machine
end

section
/-! PROOF. The statements on faults and on the other agents (60_exceptions.md): which check stops a transfer and what it
records, the HOST's turns, and the command a turn runs. -/

namespace Sys2Proof.Machine

variable {s t : State} {f : Framer} {v w : View} {i : Instr} {c : FaultCode}

/-! ### The entry checks, one by one -/

section EntryChecks

variable {n : Nat} {b : Buffer} {reads : List Nat}

theorem entryFault_notInit (h : f.cs ≠ Pin.deselected) : entryFault i n b reads f = some (.notInit i) := if_pos h

theorem entryFault_bufBounds (hcs : f.cs = Pin.deselected) (h : b.len < n) :
    entryFault i n b reads f = some (.bufBounds i n b.len) := by
  rw [entryFault, if_neg (not_not.2 hcs), if_pos h]

theorem entryFault_undefRead {j : Nat} (hcs : f.cs = Pin.deselected) (hn : n ≤ b.len) (h : firstUndef b reads = some j) :
    entryFault i n b reads f = some (.undefRead i j) := by
  rw [entryFault, if_neg (not_not.2 hcs), if_neg (Nat.not_lt.2 hn), h]

/-- The cause of each fault an entry check sets, and what it records (R175). -/
theorem entryFault_some (h : entryFault i n b reads f = some c) :
    (c = .notInit i ∧ f.cs ≠ Pin.deselected) ∨ (c = .bufBounds i n b.len ∧ b.len < n) ∨
    ∃ j, c = .undefRead i j ∧ firstUndef b reads = some j := by
  by_cases hcs : f.cs = Pin.deselected
  · by_cases hlen : b.len < n
    · rw [entryFault_bufBounds hcs hlen] at h
      exact .inr (.inl ⟨(Option.some.inj h).symm, hlen⟩)
    · cases hu : firstUndef b reads with
      | none =>
        rw [entryFault_pass _ _ _ _ _ hcs (Nat.le_of_not_lt hlen) ((firstUndef_none _ _).1 hu)] at h
        cases h
      | some j =>
        rw [entryFault_undefRead hcs (Nat.le_of_not_lt hlen) hu] at h
        exact .inr (.inr ⟨j, (Option.some.inj h).symm, rfl⟩)
  · rw [entryFault_notInit hcs] at h
    exact .inl ⟨(Option.some.inj h).symm, hcs⟩

/-- The lowest undefined slot of a list is the first that holds no value. -/
theorem firstUndef_eq_find? (b : Buffer) (reads : List Nat) :
    firstUndef b reads = reads.find? fun j => (b.read j).isNone := by
  induction reads with
  | nil => rfl
  | cons j js ih =>
    rw [firstUndef, ih, List.find?_cons]
    cases (b.read j).isNone <;> rfl

/-- Of the slots below n, it is the one that holds no value with all slots below it holding one. -/
theorem firstUndef_range_iff {j : Nat} : firstUndef b (List.range n) = some j ↔
    j < n ∧ b.read j = none ∧ ∀ l < j, b.read l ≠ none := by
  rw [firstUndef_eq_find?, List.find?_range_eq_some]
  simp [Option.isSome_iff_ne_none, and_left_comm]

/-- An aligned READN reads slot 0 and no other. -/
theorem firstUndef_alignReads_iff {ra : Align} {j : Nat} : firstUndef b (alignReads ra) = some j ↔
    ra ≠ 0 ∧ j = 0 ∧ b.read 0 = none := by
  unfold alignReads
  split <;> rename_i hra
  · exact iff_of_false nofun fun h => h.1 hra
  · rw [and_iff_right hra]
    cases h : b.read 0 <;> simp [firstUndef, h, @eq_comm _ j]

end EntryChecks

/-! ### The checks of a command -/

/-- The fault the entry checks of a command set, if one fails (R176 steps 3 to 7). -/
def checkOf (i : Instr) (v : View) : Option FaultCode :=
  match i with
  | .write1 _ _ | .read1 _ => entryFault i 0 (bufAt v.bufs 0) [] v.inst
  | .writen _ n b => entryFault i n (bufAt v.bufs b) (List.range n) v.inst
  | .readn _ n b ra => if n = 0 then none else entryFault i n (bufAt v.bufs b) (alignReads ra) v.inst
  | .init | .reserved5 | .reserved6 | .reserved7 | .addrW _ | .addrR _ | .dummy => none

theorem checkOf_readn {r : RegAddr} {n b : Nat} {ra : Align} (hn : 1 ≤ n) : checkOf (.readn r n b ra) v =
    entryFault (.readn r n b ra) n (bufAt v.bufs b) (alignReads ra) v.inst := if_neg (by omega)

/-- Only a command that opens a transaction has a check to fail. -/
theorem checkOf_opens (h : checkOf i v = some c) : i.opensTransaction = true := by
  cases i with
  | write1 | writen | read1 => rfl
  | readn r n b ra =>
    refine decide_eq_true (Nat.one_le_iff_ne_zero.2 ?_)
    rintro rfl
    cases h
  | init | reserved5 | reserved6 | reserved7 | addrW | addrR | dummy => cases h

theorem enter_checked {cmd : Instr} {n b : Nat} {reads : List Nat} {d : Datapath}
    (h : entryFault cmd n (bufAt v.bufs b) reads v.inst = some c) : v.enter cmd n b reads d = .next (v.raise c) := by
  rw [View.enter, h]

/-- A failed check is what the entry of a command comes to. -/
theorem entryOf_checked (h : checkOf i v = some c) : entryOf i v = .next (v.raise c) := by
  cases i with
  | write1 | writen | read1 => exact enter_checked h
  | readn r n b ra =>
    have hn : n ≠ 0 := Nat.one_le_iff_ne_zero.1 (of_decide_eq_true (checkOf_opens h))
    exact (if_neg hn).trans (enter_checked ((if_neg hn).symm.trans h))
  | init | reserved5 | reserved6 | reserved7 | addrW | addrR | dummy => cases h

theorem enter_fault {cmd : Instr} {n b : Nat} {reads : List Nat} {d : Datapath}
    (h : v.enter cmd n b reads d = .next w) :
    w.inst.fault = v.inst.fault ∨ ∃ c, entryFault cmd n (bufAt v.bufs b) reads v.inst = some c ∧ w = v.raise c := by
  rcases enter_cases v cmd n b reads d with ⟨c, hc, e⟩ | ⟨_, e | e⟩ <;> rw [e] at h <;> cases h
  · exact .inr ⟨c, hc, rfl⟩
  · exact .inl rfl

/-- An entry that sets a fault failed a check. -/
theorem entryOf_fault (h : entryOf i v = .next w) :
    w.inst.fault = v.inst.fault ∨ ∃ c, checkOf i v = some c ∧ w = v.raise c := by
  cases i with
  | write1 | writen | read1 => exact enter_fault h
  | readn r n b ra =>
    by_cases hn : n = 0
    · cases (if_pos hn).symm.trans h
      exact .inl rfl
    · rw [checkOf_readn (Nat.one_le_iff_ne_zero.2 hn)]
      exact enter_fault ((if_neg hn).symm.trans h)
  | init => cases h; exact .inl rfl
  | reserved5 | reserved6 | reserved7 | addrW | addrR | dummy => cases h

/-! ### A command that fails a check -/

/-- The fault of a failed check is all a well-formed command comes to. -/
theorem State.Free.exec_checked (hf : s.Free f) (hwf : i.wf s.countMax = true) (h : checkOf i (s.view f) = some c) :
    exec i s = .next (s.put ((s.view f).raise c)) := by
  obtain ⟨hat, hn, hb⟩ := hf
  rw [exec_eq_entryOf (opensTransaction_isOperation (checkOf_opens h)) hwf]
  refine onSelf_next_of hat ?_
  rw [guarded_free _ _ _ hn hb, thenFinish, entryOf_checked h]
  rfl

/-- Settles O29: the first check of every transfer fails. -/
theorem transferBeforeInitFaults : Obligations.TransferBeforeInitFaults := by
  intro i s f hf hi hwf hcs
  refine hf.exec_checked hwf ?_
  cases i with
  | write1 | writen | read1 => exact if_pos hcs
  | readn => exact (checkOf_readn (of_decide_eq_true hi)).trans (entryFault_notInit hcs)
  | init | reserved5 | reserved6 | reserved7 | addrW | addrR | dummy => cases hi

/-- Settles O30: the first check passes, and the second fails; the count, being above a length, is at least 1. -/
theorem countAboveBufferFaults : Obligations.CountAboveBufferFaults := by
  intro i n b s f hf hcs hwf hi hlen
  refine hf.exec_checked hwf ?_
  obtain ⟨r, rfl | ⟨ra, rfl⟩⟩ := hi
  · exact entryFault_bufBounds hcs hlen
  · exact (checkOf_readn (Nat.zero_lt_of_lt hlen)).trans (entryFault_bufBounds hcs hlen)

/-- Settles O31: the first two checks pass, and the slot is the lowest undefined one of those the command reads. -/
theorem undefinedSlotFaults : Obligations.UndefinedSlotFaults := by
  intro r n b s f hf hcs hmax hlen
  refine ⟨fun j hj hread hlow => ?_, fun ra hra hn hread => ?_⟩
  · refine hf.exec_checked (decide_eq_true hmax) ?_
    exact entryFault_undefRead hcs hlen (firstUndef_range_iff.2 ⟨hj, hread, hlow⟩)
  · refine hf.exec_checked (decide_eq_true hmax) ((checkOf_readn hn).trans ?_)
    exact entryFault_undefRead hcs hlen (firstUndef_alignReads_iff.2 ⟨hra, rfl, hread⟩)

/-! ### A command that sets a fault -/

theorem Advanced.fault (h : Advanced v w) : w.inst.fault = v.inst.fault := by
  cases h with
  | rested | began | released | returned => rfl
  | init _ _ _ _ h => exact h.kept.fault
  | selected => exact (select_kept v).fault
  | sent => exact (xferStep_kept v).fault
  | deselected => exact (deselect_kept v).fault

/-- No event of an operation sets a fault: only its entry does (R171). -/
theorem finish_fault (v : View) : v.finish.inst.fault = v.inst.fault :=
  finish_keeps v (fun w => w.inst.fault = v.inst.fault) (fun w hw => (advance_advanced w).fault.trans hw) rfl

/-- An instruction that sets a fault does nothing but raise it, and is one that opens a transaction. -/
theorem Did.unfaulted_or_raised (h : Did View.finish s f i w) :
    w.inst.fault = none ∨ ∃ c, i.opensTransaction = true ∧ w = (s.view f).raise c := by
  cases h with
  | held _ hn => exact .inl hn
  | raised _ c _ _ hi => exact .inr ⟨c, hi, rfl⟩
  | accepted _ _ hn | readNone _ _ _ hn | initialised hn => exact .inl ((finish_fault _).trans hn)
  | sent _ hn => exact .inl ((xferStep_kept _).fault.trans hn)

theorem exec_faulted {f' : Framer} (hf : s.insts[s.cur]? = some f) (h : exec i s = .next t)
    (ht : t.insts[s.cur]? = some f') (hc : f'.fault ≠ none) :
    ∃ c, i.opensTransaction = true ∧ f'.fault = some c ∧ t = s.put ((s.view f).raise c) := by
  obtain ⟨g, w, hg, rfl, hd⟩ := exec_next h
  cases hf.symm.trans hg
  cases (put_at w hf).symm.trans ht
  obtain ⟨c, hi, rfl⟩ := hd.unfaulted_or_raised.resolve_left hc
  exact ⟨c, hi, rfl, rfl⟩

/-- Settles O35: the fault is raised at entry, before the first event. -/
theorem faultIsPrecise : Obligations.FaultIsPrecise := by
  intro i s t f f' hf h ht hc
  obtain ⟨c, _, _, rfl⟩ := exec_faulted hf h ht hc
  exact ⟨c, rfl⟩

/-- A transfer that answers a next state is well formed: a count above COUNT_MAX is refused. -/
theorem exec_next_wf (h : exec i s = .next t) : i.wf s.countMax = true := by
  cases i with
  | writen | readn =>
    by_contra hc
    exact absurd (h.symm.trans (if_neg hc)) nofun
  | write1 | read1 | init | reserved5 | reserved6 | reserved7 | addrW | addrR | dummy => rfl

/-- A fault that exec leaves in a free framer is that of its failed check. -/
theorem State.Free.checked_of_exec {f' : Framer} (hf : s.Free f) (hi : i.isOperation = true) (h : exec i s = .next t)
    (ht : t.insts[s.cur]? = some f') (hc : f'.fault = some c) : checkOf i (s.view f) = some c := by
  obtain ⟨hat, hn, hb⟩ := hf
  rw [exec_eq_entryOf hi (exec_next_wf h)] at h
  obtain ⟨g, w, hg, hw, rfl⟩ := onSelf_next h
  cases hat.symm.trans hg
  cases (put_at w hat).symm.trans ht
  rw [guarded_free _ _ _ hn hb] at hw
  obtain ⟨u, hu, rfl⟩ := thenGo_next (go := View.finish) hw
  rw [finish_fault] at hc
  rcases entryOf_fault hu with hkept | ⟨c', hc', rfl⟩
  · rw [hkept, view_inst, hn] at hc; cases hc
  · cases hc; exact hc'

/-- Settles O32: the fault is that of the failed check; each check says its cause, of the slots its command asks for. -/
theorem faultCodeSaysCause : Obligations.FaultCodeSaysCause := by
  intro i s t f f' c hf h ht hc
  have ⟨hat, _, _⟩ := hf
  obtain ⟨_, hi, _, _⟩ := exec_faulted hat h ht (by simp [hc])
  have hcheck := hf.checked_of_exec (opensTransaction_isOperation hi) h ht hc
  refine ⟨hi, ?_⟩
  cases i with
  | write1 | read1 =>
    have hcheck : entryFault _ 0 (bufAt s.bufs 0) [] f = some c := hcheck
    rcases entryFault_some hcheck with ⟨rfl, hcs⟩ | ⟨_, hlen⟩ | ⟨_, _, hj⟩
    · exact ⟨rfl, rfl, hcs⟩
    · exact absurd hlen (Nat.not_lt_zero _)
    · cases hj
  | writen r n b =>
    rcases entryFault_some hcheck with ⟨rfl, hcs⟩ | ⟨rfl, hlen⟩ | ⟨j, rfl, hj⟩
    · exact ⟨rfl, rfl, hcs⟩
    · exact ⟨rfl, rfl, r, b, .inl rfl, rfl, hlen⟩
    · obtain ⟨hjn, hread, hlow⟩ := firstUndef_range_iff.1 hj
      exact ⟨rfl, rfl, r, n, b, .inl rfl, hjn, hread, hlow⟩
  | readn r n b ra =>
    have hn : 1 ≤ n := of_decide_eq_true hi
    rw [checkOf_readn hn] at hcheck
    rcases entryFault_some hcheck with ⟨rfl, hcs⟩ | ⟨rfl, hlen⟩ | ⟨j, rfl, hj⟩
    · exact ⟨rfl, rfl, hcs⟩
    · exact ⟨rfl, rfl, r, b, .inr ⟨ra, rfl⟩, rfl, hlen⟩
    · obtain ⟨hra, rfl, hread⟩ := firstUndef_alignReads_iff.1 hj
      exact ⟨rfl, rfl, r, n, b, .inr ⟨ra, rfl, hra, rfl⟩, hn, hread, fun l hl => absurd hl (Nat.not_lt_zero l)⟩
  | init | reserved5 | reserved6 | reserved7 | addrW | addrR | dummy => cases hi

/-! ### A command to a busy framer -/

theorem guarded_busy (cmd : Instr) (act : View → Host.Outcome View Fault Refusal) (hn : v.inst.fault = none)
    (hb : v.inst.busy = true) : v.guarded cmd act = .next (v.hold cmd) := by
  simp [View.guarded, hn, hb]

/-- Settles O38: the five operations are guarded, and the guard holds the command. -/
theorem busyFramerHoldsCommand : Obligations.BusyFramerHoldsCommand := by
  intro i s f hat hn hb hi hwf
  rw [exec_eq_entryOf hi hwf]
  exact onSelf_next_of (w := (s.view f).hold i) hat (guarded_busy i _ hn hb)

/-! ### Turns of the HOST -/

/-- A step takes the first turn of the list off it. -/
theorem step_of_turn {u : Turn} {ts : List Turn} (h : s.turns = u :: ts) :
    step s = ({ s with turns := ts } : State).takeTurn u := by
  simp only [step, State.nextTurn, h]

/-- The HOST's definition goes through exactly when every framer finds its lent slots as they were (20_memory.md R64). -/
theorem all_leavesLent_iff {b : Nat} {slots : List (Option Byte)} :
    (s.insts.all fun f => f.leavesLent b (bufAt s.bufs b) slots) = true ↔
      ∀ f ∈ s.insts, f.holds b = true → ∀ j < f.dp.cnt, slots[j]? = some ((bufAt s.bufs b).read j) := by
  simp only [List.all_eq_true, leavesLent_iff]

/-- Settles O40: the lent slots decide whether the definition is placed, under its own name alone. -/
theorem hostDefinesBuffer : Obligations.HostDefinesBuffer := by
  intro s ts b slots hts
  have hstep : step s = ({ s with turns := ts } : State).hostBuffer b slots := step_of_turn hts
  rw [hstep]
  refine ⟨fun hkept => ?_, fun ⟨f, hf, hb, j, hj, hne⟩ => ?_⟩
  · refine ⟨placeBuf s.bufs b (Buffer.ofSlots slots), if_pos (all_leavesLent_iff.2 hkept), ?_, fun j hj => ?_,
      fun c hc => bufAt_placeBuf_other _ _ _ _ hc⟩
    · rw [bufAt_placeBuf_same]; rfl
    · rw [bufAt_placeBuf_same]; exact Buffer.ofSlots_read slots j hj
  · exact if_neg fun hall => hne (all_leavesLent_iff.1 hall f hf hb j hj)

/-- Settles O41: the turn appends to one queue. -/
theorem hostIssuesCommand : Obligations.HostIssuesCommand := by
  intro s ts k r f hts hat
  have hstep : step s = ({ s with turns := ts } : State).hostIssue k r := step_of_turn hts
  rw [hstep, State.hostIssue, if_pos (List.getElem?_eq_some_iff.1 hat).1, List.modify_eq_set_getElem?, hat]
  rfl

/-! ### The command a turn runs -/

theorem step_framer_whole {k : Nat} {ts : List Turn} (h : s.turns = .framer k .whole :: ts) :
    step s = ({ s with turns := ts, cur := k } : State).turnWhole := step_of_turn h

/-- Settles O42: a whole turn of an idle framer fetches its next command for exec. -/
theorem stepRunsDecodedCommand : Obligations.StepRunsDecodedCommand := by
  intro s f r rest i hb hr hd
  refine ⟨fun hts hat => ?_, fun k ts hts hat => ?_⟩
  · rw [step_of_no_turns hts, turnWhole_idle hat hb, fetch_cons _ hr hd]
  · rw [step_framer_whole hts, turnWhole_idle (s := { s with turns := ts, cur := k }) hat hb]
    exact fetch_cons _ hr hd

theorem fetch_refused {r : Record} {rest : List Record} {e : Reject}
    (run : Instr → State → Host.Outcome State Fault Refusal) (hr : f.inbox = r :: rest)
    (hd : decode s.countMax (.command r) = .error e) : s.fetch f run = .refused (.rejected e) := by
  simp only [State.fetch, hr, hd]

/-- Settles O44: a turn of either length decodes the next command before anything else, the fault register included. -/
theorem stepRefusesBadCommand : Obligations.StepRefusesBadCommand := by
  intro s f r rest e hb hr hd
  refine ⟨fun hts hat => ?_, fun k g ts hts hat => ?_⟩
  · rw [step_of_no_turns hts, turnWhole_idle hat hb, fetch_refused _ hr hd]
  · cases g with
    | whole =>
      rw [step_framer_whole hts, turnWhole_idle (s := { s with turns := ts, cur := k }) hat hb]
      exact fetch_refused _ hr hd
    | event =>
      rw [step_framer_event hts, turnEvent_idle (s := { s with turns := ts, cur := k }) hat hb]
      exact fetch_refused _ hr hd

/-! ### Chip-select -/

/-- A coherent framer whose chip-select is LOW owns the bus (10_state.md R24, R25). -/
theorem Framer.Coherent.owner_of_low {countMax k : Nat} {owner : Option Agent} (h : f.Coherent countMax owner k)
    (hlow : f.cs.lvl = .low) : owner = some (.framer k) := by
  refine h.bus.2 ?_
  have hcs := h.cs
  cases hp : f.phase <;> simp only [Framer.csOk, hp] at hcs
  case sel | xfer | desel | rel => rfl
  case idle | done | faulted => simp [hlow] at hcs
  case acq => simp [eq_of_beq hcs, Pin.deselected] at hlow

/-- Settles O54: both own the bus, and it has one owner. -/
theorem atMostOneChipSelectLow : Obligations.AtMostOneChipSelectLow := by
  rintro s j k f g ⟨hok, _⟩ hj hk hf hg
  have hownj := ((ok_iff_coherent ..).1 (hok j f hj)).owner_of_low hf
  have hownk := ((ok_iff_coherent ..).1 (hok k g hk)).owner_of_low hg
  rw [hownj] at hownk
  cases hownk
  rfl

end Sys2Proof.Machine
end

section
/-! PROOF. The statement on the opcode table's words (30_encoding.md section 3): a word that stands for an instruction's
encoding is read as that instruction. -/

namespace Sys2Proof

theorem decodeTableWord_of_tableCode {nbits w : Nat} {i : Instr} (hwf : i.wf Config.countMax = true)
    (hcode : tableCode nbits w = encode i) : decodeTableWord nbits w = some i := by
  rw [decodeTableWord, hcode, decodeOfEncode _ i hwf]

/-- Settles O8: each of the six words stands for the encoding of its instruction. -/
theorem tableWordsDecode : Obligations.TableWordsDecode := by
  refine ⟨?write1, ?readn, ?init, ?reserved5, ?addrW, ?addrR⟩
  all_goals exact decodeTableWord_of_tableCode rfl (by decide)

end Sys2Proof
end
